-- ==== Sys2Proof/Word.lean ====
section
/-! DEFINITION. The words of the machine and their plainest conversions (00_scope.md R9). -/

namespace Sys2Proof

/-- One byte. -/
abbrev Byte := BitVec 8

/-- One 32-bit word: an instruction, a bus address, a half of the accumulator. -/
abbrev Word := BitVec 32

/-- One 64-bit value: a general register, the program counter, a system-control register. -/
abbrev Dword := BitVec 64

/-- A 5-bit register number: a general register, or a system-control register in the four moves. -/
abbrev Reg := BitVec 5

/-- `v[31:0]`. -/
def low32 (v : Dword) : Word := v.setWidth 32

/-- `sext_64` of a 32-bit value. -/
def sext64 (w : Word) : Dword := w.signExtend 64

end Sys2Proof
end

