-- ==== Sys2Proof/Config.lean ====
section
/-! DEFINITION. What is fixed for a machine: the parameters of 00_scope.md R7, the shape of the mapping list (20_memory.md
R80), the reference configuration (R98), and the free values of R8, which have no body: nothing can be proved of them. -/

namespace Sys2Proof

/-! ### Parameters with a value (00_scope.md R7) -/

/-- First address of kseg0, the direct-mapped cached segment (20_memory.md R70). -/
def Config.kseg0Base : Word := 0x80000000#32
/-- First address of kseg1, the direct-mapped uncached segment (20_memory.md R70). -/
def Config.kseg1Base : Word := 0xA0000000#32
/-- First address of ksseg, which is translated again (20_memory.md R70). -/
def Config.kssegBase : Word := 0xC0000000#32
/-- Number of entries of the translation table (20_memory.md R73). -/
abbrev Config.tlbEntries : Nat := 32
/-- The link register (10_state.md R24). -/
def Config.link : Reg := 31#5
/-- `COP0_WRITABLE`: Wired, Count, Compare, Cause (10_state.md R32). -/
def Config.cop0Writable : List Reg := [6#5, 9#5, 11#5, 13#5]
/-- `OPENBUS_FILL`, every byte of an open-bus read (20_memory.md R89). -/
def Config.openBusFill : Byte := 0xFF#8
/-- The legal page masks (20_memory.md R73). -/
def Config.pageMasks : List (BitVec 12) := [0x000#12, 0x003#12, 0x00F#12, 0x03F#12, 0x0FF#12, 0x3FF#12, 0xFFF#12]

/-! ### The mapping list (20_memory.md R80 to R97) -/

/-- What one 32-bit register of a hardware-register window does (20_memory.md R93 to R95). -/
inductive DeviceRegKind where
  /-- Plain latch: a write stores the value, a read returns the last value written (R93). -/
  | latch
  /-- Address latch of a DMA engine: a write stores the value and does nothing else (R94). -/
  | addressLatch
  /-- Length register of a DMA engine: a write copies that many bytes, from the address latched at window offset
  `srcOff` to the address latched at window offset `dstOff` (R94). -/
  | dmaLength (srcOff dstOff : Nat)
  /-- Status register: a read synthesizes 0, a write sets nothing (R95). -/
  | status
deriving DecidableEq, Repr

/-- A 32-bit register at offset `off` of its window. -/
structure DeviceReg where
  off : Nat
  kind : DeviceRegKind
deriving DecidableEq, Repr

/-- The handler of a mapping. -/
inductive MapKind where
  /-- Main RAM, scratch memory (R86). -/
  | ram
  /-- Boot/control RAM: as RAM, over its own bytes (R88). -/
  | bootRam
  /-- ROM (R87). The image is the listed bytes repeated over the mapping (log 6). -/
  | rom (image : List Byte)
  /-- Open bus (R89). -/
  | openBus
  /-- Fault trap: the interrupt/version window, any window intentionally unimplemented (R90, R97). -/
  | faultTrap
  /-- Hardware-register window number `id` with the 32-bit registers listed; any other access to it is the open
  parameter `DEVICES` (R91, log 8). -/
  | device (id : Nat) (regs : List DeviceReg)
deriving DecidableEq, Repr

/-- A mapping: physical range from `lo` inclusive to `hi` exclusive, handler, tag (R80). -/
structure Mapping where
  kind : MapKind
  tag : String
  lo : Nat
  hi : Nat
deriving DecidableEq, Repr

/-- A well-formed mapping (R84). -/
def Mapping.wf (m : Mapping) : Bool :=
  decide (m.lo < m.hi) && decide (m.hi ≤ 2 ^ 32) && m.lo % 8 == 0 && m.hi % 8 == 0

/-! ### Free values (00_scope.md R8): no body, no law -/

/-- `entropy(n)`: the draw the n-th step adds into Random (10_state.md R38; log 1). -/
opaque Config.entropy : Nat → Nat

/-- The two divisions. -/
inductive DivOp where
  /-- `DIV`. -/
  | signed
  /-- `DIVU`. -/
  | unsigned
deriving DecidableEq, Repr

/-- `div0(op, a, b)`: the HI and the LO a division by zero leaves (44_muldiv_hilo.md R232, R233; log 2). -/
opaque Config.div0 : DivOp → Word → Word → Word × Word

/-- One DMA copy (20_memory.md R96). -/
structure Copy where
  src : Word
  dst : Word
  len : Nat
deriving DecidableEq, Repr, Inhabited

/-- What a handler of `DEVICES` is given beside DEV: the window, the relative address, the width, and the value of a write
(20_memory.md R91, 10_state.md R45); a read has no value. -/
structure DeviceAccess where
  id : Nat
  off : Nat
  width : Nat
  value : Option Dword
deriving DecidableEq, Repr, Inhabited

/-- How a handler ends: the last latch bytes of DEV it writes, whether it refuses the access, and the value of a read (R91). -/
structure DeviceEnd where
  latches : List Host.Cell
  refuses : Bool
  value : Dword
deriving DecidableEq, Repr, Inhabited

/-- What a handler does, which "may call `Dma` before returning" (R91): it ends, or it writes latches, runs a copy, and goes
on from the DEV the copy leaves. -/
inductive DeviceProgram where
  | finish (e : DeviceEnd)
  | copy (latches : List Host.Cell) (c : Copy) (next : List Host.Cell → DeviceProgram)
deriving Inhabited

/-- `DEVICES`: a function of the access and of DEV (20_memory.md R91, 10_state.md R45; log 8). -/
opaque Config.device : DeviceAccess → List Host.Cell → DeviceProgram

/-! ### The reference configuration (20_memory.md R98) -/

/-- `REFCFG`'s ROM image: the byte at offset `o` is `o mod 256`. -/
def Config.refRom : List Byte := (List.range 256).map (BitVec.ofNat 8)

/-- `REFCFG`'s mapping list, in registration order. -/
def Config.refMap : List Mapping :=
  [ ⟨.ram, "rdram", 0x00000000, 0x00400000⟩,
    ⟨.ram, "sp_dmem", 0x04000000, 0x04001000⟩,
    ⟨.ram, "sp_imem", 0x04001000, 0x04002000⟩,
    ⟨.rom Config.refRom, "cart", 0x10000000, 0x10100000⟩,
    ⟨.bootRam, "pif_ram", 0x1FC007C0, 0x1FC00800⟩ ]

/-- `REFCFG`'s `ENTRY_PC`. -/
def Config.refEntryPc : Dword := 0x0000000080001000#64

end Sys2Proof
end

