-- ==== Sys2Proof/Machine/State.lean ====
section
/-! DEFINITION. The state of the machine as plain data (10_state.md), the reasons a step can stop (60_exceptions.md), and the
state after reset. -/

namespace Sys2Proof.Machine

/-- One entry of the translation table (20_memory.md R73). -/
structure TlbEntry where
  vpn2 : BitVec 19
  mask : BitVec 12
  pfn0 : BitVec 20
  v0 : Bool
  pfn1 : BitVec 20
  v1 : Bool
deriving DecidableEq, Repr

/-- The reset entry: nothing valid (10_state.md R48). -/
def TlbEntry.zero : TlbEntry := ⟨0, 0, 0, false, 0, false⟩

/-- The state (10_state.md R20). Registers are read and written through Machine/Ops.lean only. -/
structure State where
  /-- General registers `x[0..31]` (R21); read through `State.reg`, which makes `x[0]` zero (R22). -/
  gpr : Vector Dword 32
  /-- Program counter (R25). -/
  pc : Dword
  /-- HI (R28). -/
  hi : Word
  /-- LO (R28). -/
  lo : Word
  /-- System-control registers `c0[0..31]` (R30). -/
  c0 : Vector Dword 32
  /-- Float implementation/revision cell (R40). -/
  fcr0 : Word
  /-- Float control/status cell (R40). -/
  fcr31 : Word
  /-- Pending branch-delay target (R41). -/
  bd : Option Dword
  /-- Global cycle counter (R42). -/
  cycles : Dword
  /-- Translation table (R43). -/
  tlb : Vector TlbEntry Config.tlbEntries
  /-- Storage of the RAM and boot-RAM mappings by physical address (R44); an unlisted byte reads 0 (R48). -/
  mem : List Host.Cell
  /-- DEV: the latches of the hardware-register windows by physical address (R45); an unlisted byte reads 0. -/
  dev : List Host.Cell
  /-- MAP, the session's constant (20_memory.md R80): no step changes it. -/
  map : List Mapping
  /-- The model's own field: how many entropy draws have been taken (log 1). -/
  draws : Nat
deriving DecidableEq, Repr

/-- The kind of a failing access (60_exceptions.md R381). -/
inductive AccessKind where
  | fetch
  | read
  | write
deriving DecidableEq, Repr

/-- What every fault reports beside its cause (60_exceptions.md R381), and the state the faulted step leaves (R384), which the
host may inspect (R386). -/
structure FaultContext where
  /-- Address of the instruction that faulted. -/
  pc : Dword
  /-- The instruction word; none for a fetch fault, and none until the step adds it (log 7). -/
  word : Option Word
  /-- The delay target latched in stage 1, where the step was a delay-slot cycle. -/
  slot : Option Dword
  /-- The state after the faulted step. -/
  after : State
deriving DecidableEq, Repr

/-- The ten faults (60_exceptions.md R370). Each ends the run (R386) exactly where the spec says the machine reports it, so
each is safe: a true claim may become unprovable, no false one provable. -/
inductive Fault where
  /-- Code 1: the fetched word matches no row (R371). Raised by stage 4 of a step. Safe: the spec's own fault. -/
  | decodeFault (ctx : FaultContext)
  /-- Code 2: address not a multiple of the width (R372). Raised by the fetch and the aligned loads and stores. Safe: the
  spec's own fault. -/
  | misaligned (va : Word) (width : Nat) (kind : AccessKind) (ctx : FaultContext)
  /-- Code 3: no valid matching table entry (R373). Raised by any access to a translated segment. Safe: the spec's own. -/
  | tlbMiss (va : Word) (width : Nat) (kind : AccessKind) (ctx : FaultContext)
  /-- Code 4: physical address in no mapping (R374). Raised by any access. Safe: the spec's own fault. -/
  | unmapped (va pa : Word) (width : Nat) (kind : AccessKind) (ctx : FaultContext)
  /-- Code 5: write to a ROM mapping (R375). Raised by stores and DMA bytes. Safe: the spec's own fault. -/
  | readOnlyWrite (va pa : Word) (width : Nat) (ctx : FaultContext)
  /-- Code 6: `MTC0`, `DMTC0` to a register outside the writable four (R376). Safe: the spec's own fault. -/
  | unsupportedRegisterWrite (number : Reg) (ctx : FaultContext)
  /-- Code 7: a device handler refuses the access (R377). Raised by fault-trap windows, and by a window's open handler where
  `DEVICES` says so. Safe: the spec's own fault. -/
  | deviceFault (va pa : Word) (width : Nat) (kind : AccessKind) (ctx : FaultContext)
  /-- Code 8: a row of kind `unsupported` (R378). Raised by its twelve instructions. Safe: the spec's own fault. -/
  | unsupportedInstruction (mnemonic : String) (ctx : FaultContext)
  /-- Code 9: signed overflow (R379). Raised by `ADD`, `ADDI`, `SUB`, `DADD`, `DADDI`, `DSUB`. Safe: the spec's own fault. -/
  | integerOverflow (ctx : FaultContext)
  /-- Code 10: a control transfer in a delay-slot cycle (R380); the latched target is in the context. Raised by stage 5 of a
  step. Safe: the spec's own fault. -/
  | branchInDelaySlot (ctx : FaultContext)
deriving DecidableEq, Repr

/-- Why the model gives a step no meaning. -/
inductive Refusal where
  /-- The instruction has no meaning in the model yet. Raised by an arm of `exec`. Safe: nothing is claimed of it. -/
  | notModelled (mnemonic : String)
  /-- MAP is not well-formed: "a machine with such a configuration does not exist and no step of it is defined"
  (60_exceptions.md R388, 20_memory.md R84). Raised by `step`. Safe. -/
  | illFormedMap
  /-- A table entry's page mask is none of the seven legal values, which "the host must write no other value" than
  (20_memory.md R73, 93 U17: refuse). Raised by `step`. Safe. -/
  | illegalPageMask
deriving DecidableEq, Repr

/-- The state a new session has with mapping list `map` and entry `entryPc` (10_state.md R48, 70_reset_and_hazards.md R400). -/
def State.resetWith (map : List Mapping) (entryPc : Dword) : State where
  gpr := Vector.replicate 32 0#64
  pc := entryPc
  hi := 0#32
  lo := 0#32
  c0 := Vector.replicate 32 0#64
  fcr0 := 0#32
  fcr31 := 0#32
  bd := none
  cycles := 0#64
  tlb := Vector.replicate Config.tlbEntries TlbEntry.zero
  mem := []
  dev := []
  map := map
  draws := 0

/-- The machine right after reset: MAP and ENTRY_PC are open parameters (00_scope.md R8), here those of the reference
configuration (20_memory.md R98; log 3, log 4). -/
def State.reset : State := State.resetWith Config.refMap Config.refEntryPc

end Sys2Proof.Machine
end

