-- ==== Sys2Proof/Machine/Memory.lean ====
section
/-! DEFINITION. Byte storage: a list of cells, addresses strictly rising, none holding 0, which is what an unlisted address
reads as (10_state.md R48). Byte order is decided here once (20_memory.md R62). -/

namespace Sys2Proof.Machine

/-- The byte at an address. -/
def Memory.read : List Host.Cell → Nat → Byte
  | [], _ => 0#8
  | (k, v) :: rest, a => if k = a then v else Memory.read rest a

/-- Remove an address, so that it reads 0. -/
def Memory.erase (m : List Host.Cell) (a : Nat) : List Host.Cell := m.filter fun c => c.1 != a

/-- Put a byte at an address, in its place by address. -/
def Memory.insert : List Host.Cell → Nat → Byte → List Host.Cell
  | [], a, b => [(a, b)]
  | (k, v) :: rest, a, b =>
    if a < k then (a, b) :: (k, v) :: rest
    else if a = k then (a, b) :: rest
    else (k, v) :: Memory.insert rest a b

/-- Write a byte, keeping the canonical form. -/
def Memory.write (m : List Host.Cell) (a : Nat) (b : Byte) : List Host.Cell :=
  if b = 0#8 then Memory.erase m a else Memory.insert m a b

/-- The canonical form: addresses strictly rising, no cell holding what an unlisted address reads as. -/
def Memory.wf : List Host.Cell → Bool
  | [] => true
  | (k, v) :: rest => rest.all (fun c => decide (k < c.1)) && v != 0#8 && Memory.wf rest

/-- `n` bytes from `a` on, ascending. -/
def Memory.readBytes (m : List Host.Cell) (a : Nat) : Nat → List Byte
  | 0 => []
  | n + 1 => Memory.read m a :: Memory.readBytes m (a + 1) n

/-- Write the bytes of a list from `a` on, ascending. -/
def Memory.writeBytes (m : List Host.Cell) (a : Nat) : List Byte → List Host.Cell
  | [] => m
  | b :: bs => Memory.writeBytes (Memory.write m a b) (a + 1) bs

/-- Write a list of cells in order. -/
def Memory.writeCells (m : List Host.Cell) : List Host.Cell → List Host.Cell
  | [] => m
  | c :: cs => Memory.writeCells (Memory.write m c.1 c.2) cs

/-- The unsigned value of bytes, the first the most significant (20_memory.md R62). -/
def beValue (bs : List Byte) : Dword := bs.foldl (fun acc b => (acc <<< 8) ||| b.setWidth 64) 0#64

/-- The low `n` bytes of a value, the most significant first (20_memory.md R62). -/
def beBytes : Nat → Dword → List Byte
  | 0, _ => []
  | n + 1, v => (v >>> (8 * n)).setWidth 8 :: beBytes n v

end Sys2Proof.Machine
end

