-- ==== Sys2Proof/Machine/Ops.lean ====
section
/-! DEFINITION. The named operations over registers, the two ways an instruction goes on (next instruction, branch), and
the one way it ends: raising a fault, which is all the exception entry this machine has (60_exceptions.md R385). -/

namespace Sys2Proof.Machine

/-! ### Outcomes -/

/-- The outcome of an instruction or a step. -/
abbrev Outcome := Host.Outcome State Fault Refusal

/-- The outcome of a bus operation: a value and the state it leaves, a fault, or a refusal. -/
abbrev Bus (α : Type) := Host.Outcome (α × State) Fault Refusal

/-- Go on with the result, or end with the fault or refusal. -/
def andThen {α β : Type} (o : Host.Outcome α Fault Refusal) (f : α → Host.Outcome β Fault Refusal) :
    Host.Outcome β Fault Refusal :=
  match o with
  | .next a => f a
  | .fault e => .fault e
  | .refused r => .refused r

/-! ### Registers -/

/-- `x[r]`: register 0 reads zero (10_state.md R22). -/
def State.reg (s : State) (r : Reg) : Dword :=
  if r = 0#5 then 0#64 else s.gpr[r.toNat]

/-- `x[r] <- v`: a write to register 0 is discarded (10_state.md R22). -/
def State.setReg (s : State) (r : Reg) (v : Dword) : State :=
  if r = 0#5 then s else { s with gpr := s.gpr.set r.toNat v }

/-- `c0[i]` (10_state.md R31). -/
def State.cop0 (s : State) (i : Reg) : Dword := s.c0[i.toNat]

/-- `c0[i] <- v`, the whole cell, no whitelist: the hardware's own writes and the host's (10_state.md R33). -/
def State.setCop0 (s : State) (i : Reg) (v : Dword) : State := { s with c0 := s.c0.set i.toNat v }

/-- The accumulator as one 64-bit value, HI the upper half (10_state.md R28). -/
def State.hilo (s : State) : Dword := s.hi ++ s.lo

/-- Write both halves of the accumulator (10_state.md R29). -/
def State.setHiLo (s : State) (hi lo : Word) : State := { s with hi := hi, lo := lo }

/-- Write HILO whole: `HI <- v[63:32]`, `LO <- v[31:0]` (10_state.md R29). -/
def State.setHilo64 (s : State) (v : Dword) : State := s.setHiLo (v.extractLsb' 32 32) (v.extractLsb' 0 32)

/-! ### Going on -/

/-- `pc <- pc + 4`, the end of every instruction of kind `normal` (40_step_engine.md R148). -/
def State.advance (s : State) : State := { s with pc := s.pc + 4#64 }

/-- Write a general register and go to the next instruction. -/
def writeReg (s : State) (r : Reg) (v : Dword) : Outcome := .next (s.setReg r v).advance

/-- Taken branch or jump: stage the target, `pc <- pc + 4` (45_branch_jump.md R250). -/
def takeBranch (s : State) (target : Dword) : Outcome := .next { s with bd := some target, pc := s.pc + 4#64 }

/-- Branch not taken: `pc <- pc + 8`, past the slot (45_branch_jump.md R251). -/
def skipSlot (s : State) : Outcome := .next { s with pc := s.pc + 8#64 }

/-- Branch to `target` if the condition holds, else skip the slot. -/
def branchIf (s : State) (c : Bool) (target : Dword) : Outcome := if c then takeBranch s target else skipSlot s

/-- Write the return address `pc + 8` into a register (45_branch_jump.md R253). -/
def State.linkTo (s : State) (r : Reg) : State := s.setReg r (s.pc + 8#64)

/-! ### Raising a fault -/

/-- The context of a fault raised in this state; the step adds the word and the latched target (60_exceptions.md R381). -/
def State.context (s : State) : FaultContext := { pc := s.pc, word := none, slot := none, after := s }

/-- Raise a fault: the one exception entry of the machine, a report to the host with nothing vectored and no register
written (60_exceptions.md R384, R385). -/
def raise {α : Type} (s : State) (f : FaultContext → Fault) : Host.Outcome α Fault Refusal := .fault (f s.context)

/-- The context a fault carries. -/
def Fault.context : Fault → FaultContext
  | .decodeFault ctx => ctx
  | .misaligned _ _ _ ctx => ctx
  | .tlbMiss _ _ _ ctx => ctx
  | .unmapped _ _ _ _ ctx => ctx
  | .readOnlyWrite _ _ _ ctx => ctx
  | .unsupportedRegisterWrite _ ctx => ctx
  | .deviceFault _ _ _ _ ctx => ctx
  | .unsupportedInstruction _ ctx => ctx
  | .integerOverflow ctx => ctx
  | .branchInDelaySlot ctx => ctx

/-- The same fault with another context. -/
def Fault.withContext (c : FaultContext) : Fault → Fault
  | .decodeFault _ => .decodeFault c
  | .misaligned va n k _ => .misaligned va n k c
  | .tlbMiss va n k _ => .tlbMiss va n k c
  | .unmapped va pa n k _ => .unmapped va pa n k c
  | .readOnlyWrite va pa n _ => .readOnlyWrite va pa n c
  | .unsupportedRegisterWrite i _ => .unsupportedRegisterWrite i c
  | .deviceFault va pa n k _ => .deviceFault va pa n k c
  | .unsupportedInstruction m _ => .unsupportedInstruction m c
  | .integerOverflow _ => .integerOverflow c
  | .branchInDelaySlot _ => .branchInDelaySlot c

/-- Add to a fault what the step knows: the instruction word and the delay target latched in stage 1 (60_exceptions.md R381). -/
def Fault.inStep (word : Option Word) (slot : Option Dword) (f : Fault) : Fault :=
  f.withContext { f.context with word := word, slot := slot }

/-- The code of a fault (60_exceptions.md R370). -/
def Fault.code : Fault → Nat
  | .decodeFault _ => 1
  | .misaligned _ _ _ _ => 2
  | .tlbMiss _ _ _ _ => 3
  | .unmapped _ _ _ _ _ => 4
  | .readOnlyWrite _ _ _ _ => 5
  | .unsupportedRegisterWrite _ _ => 6
  | .deviceFault _ _ _ _ _ => 7
  | .unsupportedInstruction _ _ => 8
  | .integerOverflow _ => 9
  | .branchInDelaySlot _ => 10

/-- The class of a fault, which has no effect on behaviour (60_exceptions.md R370, R376). -/
inductive FaultClass where
  | decode
  | memory
  | unsupportedOperation
deriving DecidableEq, Repr

/-- The class column of 60_exceptions.md R370. -/
def Fault.faultClass : Fault → FaultClass
  | .decodeFault _ => .decode
  | .misaligned _ _ _ _ | .tlbMiss _ _ _ _ | .unmapped _ _ _ _ _ | .readOnlyWrite _ _ _ _
  | .unsupportedRegisterWrite _ _ | .deviceFault _ _ _ _ _ => .memory
  | .unsupportedInstruction _ _ | .integerOverflow _ | .branchInDelaySlot _ => .unsupportedOperation

/-- The trapping arithmetic: overflow raises `IntegerOverflow` and writes nothing (60_exceptions.md R379). -/
def writeUnlessOverflow (s : State) (overflow : Bool) (r : Reg) (v : Dword) : Outcome :=
  if overflow then raise s .integerOverflow else writeReg s r v

/-- The handler of every row of kind `unsupported` (48_cop0_system.md R348). -/
def unsupported (s : State) (mnemonic : String) : Outcome := raise s (.unsupportedInstruction mnemonic)

end Sys2Proof.Machine
end

