-- ==== Sys2Proof/Machine/Bus.lean ====
section
/-! DEFINITION. The memory bus: translation, dispatch over the mapping list, handlers, DMA, and the two access functions
(20_memory.md). -/

namespace Sys2Proof.Machine

/-! ### Translation (20_memory.md R70 to R75) -/

/-- The physical address an entry gives, if its page matches and the selected half is valid (R74). -/
def TlbEntry.hit (e : TlbEntry) (va : Word) : Option Word :=
  let m19 : BitVec 19 := e.mask.setWidth 19
  let size : Word := (e.mask.setWidth 32 + 1#32) <<< 12
  let off : Word := size - 1#32
  if va.extractLsb' 13 19 &&& ~~~m19 = e.vpn2 &&& ~~~m19 then
    let half := if va &&& size ≠ 0#32 then (e.pfn1, e.v1) else (e.pfn0, e.v0)
    if half.2 then some (((half.1.setWidth 32 <<< 12) &&& ~~~off) ||| (va &&& off)) else none
  else none

/-- `TlbLookup`: ascending index, first hit wins (R74). -/
def tlbLookup (s : State) (va : Word) : Option Word := s.tlb.toList.findSome? fun e => e.hit va

/-- `Translate`: two direct-mapped segments, the table for the rest (R70, R71, R72); `none` is a miss (R75). -/
def translate (s : State) (va : Word) : Option Word :=
  if va < Config.kseg0Base then tlbLookup s va
  else if va < Config.kseg1Base then some (va - Config.kseg0Base)
  else if va < Config.kssegBase then some (va - Config.kseg1Base)
  else tlbLookup s va

/-! ### Dispatch (20_memory.md R80 to R84) -/

/-- Whether a mapping contains a physical address. -/
def Mapping.contains (m : Mapping) (pa : Word) : Bool := decide (m.lo ≤ pa.toNat) && decide (pa.toNat < m.hi)

/-- `Lookup`: the first mapping in list order (R81). -/
def lookup (map : List Mapping) (pa : Word) : Option Mapping := map.find? fun m => Mapping.contains m pa

/-- A well-formed MAP (R84). -/
def mapWf (map : List Mapping) : Bool := map.all Mapping.wf

/-- The mapping and the physical address of an access, or its fault, in the order Misaligned, TlbMiss, Unmapped
(R61, R64, R100, R101). -/
def route (s : State) (a : Dword) (n : Nat) (k : AccessKind) : Host.Outcome (Mapping × Word) Fault Refusal :=
  let va := low32 a
  if va.toNat % n ≠ 0 then raise s (.misaligned va n k)
  else match translate s va with
    | none => raise s (.tlbMiss va n k)
    | some pa => match lookup s.map pa with
      | none => raise s (.unmapped va pa n k)
      | some m => .next (m, pa)

/-! ### Handlers (20_memory.md R86 to R97) -/

/-- The byte of a ROM image at a relative address (R87; log 6). -/
def romByte (image : List Byte) (o : Nat) : Byte := image.getD (o % image.length) 0#8

/-- `n` bytes of a ROM image, ascending. -/
def romBytes (image : List Byte) (o : Nat) : Nat → List Byte
  | 0 => []
  | n + 1 => romByte image o :: romBytes image (o + 1) n

/-- The register a 4-byte access at relative address `o` names, if the window lists one there (log 8). -/
def regAt (regs : List DeviceReg) (o n : Nat) : Option DeviceRegKind :=
  if n = 4 then (regs.find? fun r => r.off == o).map fun r => r.kind else none

/-- The low `n` bytes of a value. -/
def truncBytes (n : Nat) (v : Dword) : Dword := beValue (beBytes n v)

/-- The 32-bit latch of DEV at an address. -/
def State.latch (s : State) (a : Nat) : Word := low32 (beValue (Memory.readBytes s.dev a 4))

/-- What answers an access that no listed register of a window does: a handler of `DEVICES` (R91), given the access, the
state and the fault of a refusal. `none`: the handler does not return. -/
abbrev Handler := DeviceAccess → State → (FaultContext → Fault) → Option (Bus Dword)

/-- Go on from a next state, where either part may not return. -/
def onReturn {α β : Type} (o : Option (Host.Outcome α Fault Refusal)) (f : α → Option (Host.Outcome β Fault Refusal)) :
    Option (Host.Outcome β Fault Refusal) :=
  match o with
  | none => none
  | some (.next a) => f a
  | some (.fault e) => some (.fault e)
  | some (.refused r) => some (.refused r)

/-- The read handler of a mapping; `o` is the relative address (R82). -/
def handleRead (h : Handler) (s : State) (m : Mapping) (va pa : Word) (n : Nat) (k : AccessKind) : Option (Bus Dword) :=
  let o := pa.toNat - m.lo
  match m.kind with
  | .ram | .bootRam => some (.next (beValue (Memory.readBytes s.mem (m.lo + o) n), s))
  | .rom image => some (.next (beValue (romBytes image o n), s))
  | .openBus => some (.next (beValue (List.replicate n Config.openBusFill), s))
  | .faultTrap => some (raise s (.deviceFault va pa n k))
  | .device id regs =>
    match regAt regs o n with
    | some .latch => some (.next (beValue (Memory.readBytes s.dev (m.lo + o) n), s))
    | some .status => some (.next (0#64, s))
    | some .addressLatch | some (.dmaLength _ _) | none =>
      onReturn (h ⟨id, o, n, none⟩ s (.deviceFault va pa n k)) fun r => some (.next (truncBytes n r.1, r.2))

/-- The write handler of a mapping; `o` is the relative address (R82). A length register is written like a latch here; the
copy it starts is `startedCopy`. -/
def handleWrite (h : Handler) (s : State) (m : Mapping) (va pa : Word) (n : Nat) (v : Dword) : Option Outcome :=
  let o := pa.toNat - m.lo
  match m.kind with
  | .ram | .bootRam => some (.next { s with mem := Memory.writeBytes s.mem (m.lo + o) (beBytes n v) })
  | .rom _ => some (raise s (.readOnlyWrite va pa n))
  | .openBus => some (.next s)
  | .faultTrap => some (raise s (.deviceFault va pa n .write))
  | .device id regs =>
    match regAt regs o n with
    | some .latch | some .addressLatch | some (.dmaLength _ _) =>
      some (.next { s with dev := Memory.writeBytes s.dev (m.lo + o) (beBytes n v) })
    | some .status => some (.next s)
    | none =>
      onReturn (h ⟨id, o, n, some (truncBytes n v)⟩ s (.deviceFault va pa n .write)) fun r => some (.next r.2)

/-- The copy a write to a length register starts, between the addresses latched (R94). -/
def startedCopy (s : State) (m : Mapping) (pa : Word) (n : Nat) (v : Dword) : Option Copy :=
  match m.kind with
  | .ram | .bootRam | .rom _ | .openBus | .faultTrap => none
  | .device _ regs =>
    match regAt regs (pa.toNat - m.lo) n with
    | some (.dmaLength srcOff dstOff) =>
      some ⟨s.latch (m.lo + srcOff), s.latch (m.lo + dstOff), (low32 v).toNat⟩
    | some .latch | some .addressLatch | some .status | none => none

/-! ### The handlers of `DEVICES` (20_memory.md R91) -/

/-- The byte access `MemRead(a, 1)` of a handler's copy (R96, R100). -/
def readByteWith (h : Handler) (s : State) (a : Word) : Option (Bus Dword) :=
  onReturn (some (route s (a.setWidth 64) 1 .read)) fun r => handleRead h s r.1 a r.2 1 .read

/-- The byte access `MemWrite(a, 1, v)` of a handler's copy (R96, R101): no byte of a window starts a copy by `startedCopy`. -/
def writeByteWith (h : Handler) (s : State) (a : Word) (v : Dword) : Option Outcome :=
  onReturn (some (route s (a.setWidth 64) 1 .write)) fun r => handleWrite h s r.1 a r.2 1 v

/-- `Dma` as a handler calls it (R91, R96). -/
def dmaWith (h : Handler) : Nat → Word → Word → State → Option Outcome
  | 0, _, _, s => some (.next s)
  | len + 1, src, dst, s =>
    onReturn (readByteWith h s src) fun r =>
      onReturn (writeByteWith h r.2 dst r.1) fun s' => dmaWith h len (src + 1#32) (dst + 1#32) s'

/-- Write latch bytes of DEV. -/
def State.withLatches (s : State) (latches : List Host.Cell) : State := { s with dev := Memory.writeCells s.dev latches }

/-- A handler's end: its last latch writes, then its refusal or its value (R91, R377). -/
def deviceEnd (e : DeviceEnd) (s : State) (fault : FaultContext → Fault) : Bus Dword :=
  if e.refuses then raise (s.withLatches e.latches) fault else .next (e.value, s.withLatches e.latches)

/-- Run what a handler does; `h` are the handlers that bytes of its copies reach (R91, R96). -/
def runDevice (h : Handler) : DeviceProgram → State → (FaultContext → Fault) → Option (Bus Dword)
  | .finish e, s, fault => some (deviceEnd e s fault)
  | .copy latches c next, s, fault =>
    onReturn (dmaWith h c.len c.src c.dst (s.withLatches latches)) fun s' => runDevice h (next s'.dev) s' fault

/-! #### Why the handlers can call each other: a run with fewer returns has no other ones -/

/-- `y` returns what `x` returns, wherever `x` does. -/
def ReturnsToo {α : Type} (x y : Option α) : Prop := ∀ r, x = some r → y = some r

theorem ReturnsToo.refl {α : Type} (x : Option α) : ReturnsToo x x := fun _ h => h

theorem onReturn_mono {α β : Type} {o o' : Option (Host.Outcome α Fault Refusal)}
    {f f' : α → Option (Host.Outcome β Fault Refusal)} (ho : ReturnsToo o o') (hf : ∀ a, ReturnsToo (f a) (f' a)) :
    ReturnsToo (onReturn o f) (onReturn o' f') := by
  intro r hr
  cases o with
  | none => exact absurd hr (by simp [onReturn])
  | some x =>
    rw [ho x rfl]
    cases x with
    | next a => exact hf a r hr
    | fault e => exact hr
    | refused e => exact hr

section
variable {h h' : Handler} (hh : ∀ a s f, ReturnsToo (h a s f) (h' a s f))
include hh

theorem handleRead_mono (s : State) (m : Mapping) (va pa : Word) (n : Nat) (k : AccessKind) :
    ReturnsToo (handleRead h s m va pa n k) (handleRead h' s m va pa n k) := by
  unfold handleRead
  split <;> first | exact ReturnsToo.refl _ | dsimp only
  split <;> first | exact ReturnsToo.refl _ | exact onReturn_mono (hh _ _ _) fun _ => ReturnsToo.refl _

theorem handleWrite_mono (s : State) (m : Mapping) (va pa : Word) (n : Nat) (v : Dword) :
    ReturnsToo (handleWrite h s m va pa n v) (handleWrite h' s m va pa n v) := by
  unfold handleWrite
  split <;> first | exact ReturnsToo.refl _ | dsimp only
  split <;> first | exact ReturnsToo.refl _ | exact onReturn_mono (hh _ _ _) fun _ => ReturnsToo.refl _

theorem dmaWith_mono (len : Nat) (src dst : Word) (s : State) :
    ReturnsToo (dmaWith h len src dst s) (dmaWith h' len src dst s) := by
  induction len generalizing src dst s with
  | zero => exact ReturnsToo.refl _
  | succ len ih =>
    refine onReturn_mono (onReturn_mono (ReturnsToo.refl _) fun r => handleRead_mono hh _ _ _ _ _ _) fun r => ?_
    exact onReturn_mono (onReturn_mono (ReturnsToo.refl _) fun q => handleWrite_mono hh _ _ _ _ _ _) fun s' =>
      ih _ _ _

theorem runDevice_mono (p : DeviceProgram) (s : State) (fault : FaultContext → Fault) :
    ReturnsToo (runDevice h p s fault) (runDevice h' p s fault) := by
  induction p generalizing s with
  | finish e => exact ReturnsToo.refl _
  | copy latches c next ih => exact onReturn_mono (dmaWith_mono hh _ _ _ _) fun s' => ih _ _

end

/-- The order in which the recursion of `devices` is a least fixpoint. -/
theorem returnsToo_iff {α : Type} {x y : Option α} : Lean.Order.PartialOrder.rel x y ↔ ReturnsToo x y := by
  constructor
  · intro h
    cases h with
    | bot => exact nofun
    | refl => exact ReturnsToo.refl _
  · intro h
    cases x with
    | none => exact Lean.Order.FlatOrder.rel.bot
    | some r => rw [h r rfl]

/-- `DEVICES`: a handler does what `Config.device` says, and a byte of its copies that reaches a window calls the handler of
that window, this same function, to whatever depth (R91, R96; log 10). -/
def devices (a : DeviceAccess) (s : State) (fault : FaultContext → Fault) : Option (Bus Dword) :=
  runDevice devices (Config.device a s.dev) s fault
partial_fixpoint monotonicity fun _ _ hh a s fault =>
  returnsToo_iff.mpr (runDevice_mono (fun a s f => returnsToo_iff.mp (hh a s f)) (Config.device a s.dev) s fault)

/-! ### The access functions and DMA (20_memory.md R96, R99 to R101) -/

/-- What an access to a window gives: what its handler gives, which returns (R91, R152); a `DEVICES` with a handler that
does not is none, and the access is refused (log 10). -/
def returned {α : Type} (s : State) (fault : FaultContext → Fault) (o : Option (Host.Outcome α Fault Refusal)) :
    Host.Outcome α Fault Refusal :=
  o.getD (raise s fault)

/-- A read that reached mapping `m`. -/
def completeRead (s : State) (m : Mapping) (va pa : Word) (n : Nat) (k : AccessKind) : Bus Dword :=
  returned s (.deviceFault va pa n k) (handleRead devices s m va pa n k)

/-- `MemRead(a, n)`: the unsigned `8n`-bit value, and the state a device handler may have changed. -/
def memRead (s : State) (a : Dword) (n : Nat) (k : AccessKind) : Bus Dword :=
  andThen (route s a n k) fun r => completeRead s r.1 (low32 a) r.2 n k

/-- A write that reached mapping `m`, up to a copy it starts. -/
def writeHandled (s : State) (m : Mapping) (va pa : Word) (n : Nat) (v : Dword) : Outcome :=
  returned s (.deviceFault va pa n .write) (handleWrite devices s m va pa n v)

/-- `Dma(src, dst, len)` (R96), as a store to a length register runs it: byte `i` is read, then written, before byte `i + 1`
is read; addresses wrap at `2^32`. A byte write is `memWrite` of width 1, which starts no copy by `startedCopy`. -/
def dma (s : State) (src dst : Word) : Nat → Outcome
  | 0 => .next s
  | len + 1 =>
    andThen (memRead s (src.setWidth 64) 1 .read) fun r =>
      andThen (route r.2 (dst.setWidth 64) 1 .write) fun q =>
        andThen (writeHandled r.2 q.1 dst q.2 1 r.1) fun s' => dma s' (src + 1#32) (dst + 1#32) len

/-- A write that reached mapping `m`: its handler, then the copy it starts, before the store completes (R94). -/
def completeWrite (s : State) (m : Mapping) (va pa : Word) (n : Nat) (v : Dword) : Outcome :=
  andThen (writeHandled s m va pa n v) fun s' =>
    match startedCopy s' m pa n v with
    | none => .next s'
    | some c => dma s' c.src c.dst c.len

/-- `MemWrite(a, n, v)`. -/
def memWrite (s : State) (a : Dword) (n : Nat) (v : Dword) : Outcome :=
  andThen (route s a n .write) fun r => completeWrite s r.1 (low32 a) r.2 n v

/-- Single-byte reads at the addresses listed, in order (R99, 47_unaligned_load_store.md R320). -/
def readEach (s : State) : List Word → Bus (List Byte)
  | [] => .next ([], s)
  | a :: as =>
    andThen (memRead s (a.setWidth 64) 1 .read) fun r =>
      andThen (readEach r.2 as) fun q => .next (r.1.setWidth 8 :: q.1, q.2)

/-- Single-byte writes, in order (R99, 47_unaligned_load_store.md R320). -/
def writeEach (s : State) : List (Word × Byte) → Outcome
  | [] => .next s
  | (a, b) :: rest => andThen (memWrite s (a.setWidth 64) 1 (b.setWidth 64)) fun s' => writeEach s' rest

/-! ### Storage as the host reads it (70_reset_and_hazards.md R406) -/

/-- The byte of storage at a physical address: a pure read, through no device handler; `none` where no storage lies. -/
def State.peek (s : State) (pa : Word) : Option Byte :=
  match lookup s.map pa with
  | none => none
  | some m => match m.kind with
    | .ram | .bootRam => some (Memory.read s.mem pa.toNat)
    | .rom image => some (romByte image (pa.toNat - m.lo))
    | .openBus | .faultTrap | .device _ _ => none

end Sys2Proof.Machine
end

