-- ==== Sys2Proof/Machine/Operands.lean ====
section
/-! DEFINITION. How operands are formed from the fields of a word (30_encoding.md R114). -/

namespace Sys2Proof.Machine

/-- `sext_64(imm)`. -/
def sextImm (imm : BitVec 16) : Dword := imm.signExtend 64

/-- `zext_64(imm)`. -/
def zextImm (imm : BitVec 16) : Dword := imm.setWidth 64

/-- Upper immediate: `sext_64(imm ‖ 0x0000)`. -/
def upperImm (imm : BitVec 16) : Dword := sext64 (imm ++ 0#16)

/-- Effective address: `x[base] + sext_64(offset)` modulo `2^64` (46_load_store.md R290). -/
def effAddr (s : State) (base : Reg) (offset : BitVec 16) : Dword := s.reg base + sextImm offset

/-- PC-relative target: `pc + 4 + (sext_64(offset) << 2)` (45_branch_jump.md R252). -/
def branchTarget (pc : Dword) (offset : BitVec 16) : Dword := pc + 4#64 + (sextImm offset <<< 2)

/-- Region jump target: `(pc & 0xF0000000) | (zext_64(target) << 2)` (45_branch_jump.md R252). -/
def jumpTarget (pc : Dword) (target : BitVec 26) : Dword := (pc &&& 0xF0000000#64) ||| (target.setWidth 64 <<< 2)

/-- Amount of a 32-bit variable shift: `x[rs][4:0]` (43_shifts.md R210). -/
def shiftAmount32 (s : State) (rs : Reg) : Nat := ((s.reg rs).extractLsb' 0 5).toNat

/-- Amount of a 64-bit variable shift: `x[rs][5:0]` (43_shifts.md R210). -/
def shiftAmount64 (s : State) (rs : Reg) : Nat := ((s.reg rs).extractLsb' 0 6).toNat

/-- `x[r][31:0]`, the operand of every 32-bit operation (42_alu_register.md R180). -/
def State.reg32 (s : State) (r : Reg) : Word := low32 (s.reg r)

/-! ### The block of a partial-word access (47_unaligned_load_store.md R320) -/

/-- Position of the addressed byte in its aligned block of `size` bytes. -/
def blockPos (va : Word) (size : Nat) : Nat := va.toNat % size

/-- Address of the aligned block. -/
def blockBase (va : Word) (size : Nat) : Word := va - BitVec.ofNat 32 (blockPos va size)

/-- `count` consecutive byte addresses. -/
def addrsFrom : Word → Nat → List Word
  | _, 0 => []
  | a, count + 1 => a :: addrsFrom (a + 1#32) count

/-- The bytes a "left" instruction covers: from `va` to the end of the block. -/
def leftAddrs (va : Word) (size : Nat) : List Word := addrsFrom va (size - blockPos va size)

/-- The bytes a "right" instruction covers: from the start of the block to `va`. -/
def rightAddrs (va : Word) (size : Nat) : List Word := addrsFrom (blockBase va size) (blockPos va size + 1)

end Sys2Proof.Machine
end

