-- ==== Sys2Proof/Machine/Flags.lean ====
section
/-! DEFINITION. The machine has no flag register and no condition codes (10_state.md R27). What stands in their place: the
signed-overflow conditions of the trapping instructions, the 0 or 1 of a comparison, and the branch conditions. -/

namespace Sys2Proof.Machine

/-- The exact signed sum does not fit the width (42_alu_register.md R181, R191). -/
def addOverflows {w : Nat} (a b : BitVec w) : Bool := a.saddOverflow b

/-- The exact signed difference does not fit the width (42_alu_register.md R183, R193). -/
def subOverflows {w : Nat} (a b : BitVec w) : Bool := a.ssubOverflow b

/-- The result of a comparison (42_alu_register.md R189, R190). -/
def boolValue (c : Bool) : Dword := if c then 1#64 else 0#64

/-- `x[rs] = x[rt]`, all 64 bits (45_branch_jump.md R258). -/
def regsEqual (s : State) (rs rt : Reg) : Bool := s.reg rs == s.reg rt

/-- `signed_64(x[rs]) < 0` (45_branch_jump.md R262). -/
def regNegative (s : State) (rs : Reg) : Bool := (s.reg rs).slt 0#64

/-- `signed_64(x[rs]) <= 0` (45_branch_jump.md R260). -/
def regNotPositive (s : State) (rs : Reg) : Bool := (s.reg rs).sle 0#64

end Sys2Proof.Machine
end

