-- ==== Sys2Proof/Machine/AluImmediate.lean ====
section
/-! DEFINITION. Arithmetic and logic with an immediate operand (41_alu_immediate.md). -/

namespace Sys2Proof.Machine

/-- R161. -/
def execAddi (rt rs : Reg) (imm : BitVec 16) (s : State) : Outcome :=
  let b : Word := imm.signExtend 32
  writeUnlessOverflow s (addOverflows (s.reg32 rs) b) rt (sext64 (s.reg32 rs + b))

/-- R162. -/
def execAddiu (rt rs : Reg) (imm : BitVec 16) (s : State) : Outcome :=
  writeReg s rt (sext64 (s.reg32 rs + imm.signExtend 32))

/-- R163. -/
def execSlti (rt rs : Reg) (imm : BitVec 16) (s : State) : Outcome :=
  writeReg s rt (boolValue ((s.reg rs).slt (sextImm imm)))

/-- R164. -/
def execSltiu (rt rs : Reg) (imm : BitVec 16) (s : State) : Outcome :=
  writeReg s rt (boolValue ((s.reg rs).ult (sextImm imm)))

/-- R165. -/
def execAndi (rt rs : Reg) (imm : BitVec 16) (s : State) : Outcome :=
  writeReg s rt (s.reg rs &&& zextImm imm)

/-- R166. -/
def execOri (rt rs : Reg) (imm : BitVec 16) (s : State) : Outcome :=
  writeReg s rt (s.reg rs ||| zextImm imm)

/-- R167. -/
def execXori (rt rs : Reg) (imm : BitVec 16) (s : State) : Outcome :=
  writeReg s rt (s.reg rs ^^^ zextImm imm)

/-- R168. -/
def execLui (rt : Reg) (imm : BitVec 16) (s : State) : Outcome := writeReg s rt (upperImm imm)

/-- R169. -/
def execDaddi (rt rs : Reg) (imm : BitVec 16) (s : State) : Outcome :=
  writeUnlessOverflow s (addOverflows (s.reg rs) (sextImm imm)) rt (s.reg rs + sextImm imm)

/-- R170. -/
def execDaddiu (rt rs : Reg) (imm : BitVec 16) (s : State) : Outcome := writeReg s rt (s.reg rs + sextImm imm)

end Sys2Proof.Machine
end

