-- ==== Sys2Proof/Machine/AluRegister.lean ====
section
/-! DEFINITION. Three-register arithmetic, logic and comparison (42_alu_register.md). -/

namespace Sys2Proof.Machine

/-- R181. -/
def execAdd (rd rs rt : Reg) (s : State) : Outcome :=
  writeUnlessOverflow s (addOverflows (s.reg32 rs) (s.reg32 rt)) rd (sext64 (s.reg32 rs + s.reg32 rt))

/-- R182. -/
def execAddu (rd rs rt : Reg) (s : State) : Outcome := writeReg s rd (sext64 (s.reg32 rs + s.reg32 rt))

/-- R183. -/
def execSub (rd rs rt : Reg) (s : State) : Outcome :=
  writeUnlessOverflow s (subOverflows (s.reg32 rs) (s.reg32 rt)) rd (sext64 (s.reg32 rs - s.reg32 rt))

/-- R184. -/
def execSubu (rd rs rt : Reg) (s : State) : Outcome := writeReg s rd (sext64 (s.reg32 rs - s.reg32 rt))

/-- R185. -/
def execAnd (rd rs rt : Reg) (s : State) : Outcome := writeReg s rd (s.reg rs &&& s.reg rt)

/-- R186. -/
def execOr (rd rs rt : Reg) (s : State) : Outcome := writeReg s rd (s.reg rs ||| s.reg rt)

/-- R187. -/
def execXor (rd rs rt : Reg) (s : State) : Outcome := writeReg s rd (s.reg rs ^^^ s.reg rt)

/-- R188. -/
def execNor (rd rs rt : Reg) (s : State) : Outcome := writeReg s rd (~~~(s.reg rs ||| s.reg rt))

/-- R189. -/
def execSlt (rd rs rt : Reg) (s : State) : Outcome := writeReg s rd (boolValue ((s.reg rs).slt (s.reg rt)))

/-- R190. -/
def execSltu (rd rs rt : Reg) (s : State) : Outcome := writeReg s rd (boolValue ((s.reg rs).ult (s.reg rt)))

/-- R191. -/
def execDadd (rd rs rt : Reg) (s : State) : Outcome :=
  writeUnlessOverflow s (addOverflows (s.reg rs) (s.reg rt)) rd (s.reg rs + s.reg rt)

/-- R192. -/
def execDaddu (rd rs rt : Reg) (s : State) : Outcome := writeReg s rd (s.reg rs + s.reg rt)

/-- R193. -/
def execDsub (rd rs rt : Reg) (s : State) : Outcome :=
  writeUnlessOverflow s (subOverflows (s.reg rs) (s.reg rt)) rd (s.reg rs - s.reg rt)

/-- R194. -/
def execDsubu (rd rs rt : Reg) (s : State) : Outcome := writeReg s rd (s.reg rs - s.reg rt)

end Sys2Proof.Machine
end

