-- ==== Sys2Proof/Machine/BranchJump.lean ====
section
/-! DEFINITION. Branches and jumps (45_branch_jump.md). That a control transfer in a delay-slot cycle faults is the step's
(40_step_engine.md R153). -/

namespace Sys2Proof.Machine

/-- R254. -/
def execJ (target : BitVec 26) (s : State) : Outcome := takeBranch s (jumpTarget s.pc target)

/-- R255. -/
def execJal (target : BitVec 26) (s : State) : Outcome := takeBranch (s.linkTo Config.link) (jumpTarget s.pc target)

/-- R256. -/
def execJr (rs : Reg) (s : State) : Outcome := takeBranch s (s.reg rs)

/-- R257. The target is read before the link is written. -/
def execJalr (rd rs : Reg) (s : State) : Outcome := takeBranch (s.linkTo rd) (s.reg rs)

/-- R258. -/
def execBeq (rs rt : Reg) (offset : BitVec 16) (s : State) : Outcome :=
  branchIf s (regsEqual s rs rt) (branchTarget s.pc offset)

/-- R259. -/
def execBne (rs rt : Reg) (offset : BitVec 16) (s : State) : Outcome :=
  branchIf s (!regsEqual s rs rt) (branchTarget s.pc offset)

/-- R260. -/
def execBlez (rs : Reg) (offset : BitVec 16) (s : State) : Outcome :=
  branchIf s (regNotPositive s rs) (branchTarget s.pc offset)

/-- R261. -/
def execBgtz (rs : Reg) (offset : BitVec 16) (s : State) : Outcome :=
  branchIf s (!regNotPositive s rs) (branchTarget s.pc offset)

/-- R262. -/
def execBltz (rs : Reg) (offset : BitVec 16) (s : State) : Outcome :=
  branchIf s (regNegative s rs) (branchTarget s.pc offset)

/-- R263. -/
def execBgez (rs : Reg) (offset : BitVec 16) (s : State) : Outcome :=
  branchIf s (!regNegative s rs) (branchTarget s.pc offset)

/-- R264. The condition is evaluated before the link is written (R253). -/
def execBltzal (rs : Reg) (offset : BitVec 16) (s : State) : Outcome :=
  branchIf (s.linkTo Config.link) (regNegative s rs) (branchTarget s.pc offset)

/-- R265. The condition is evaluated before the link is written (R253). -/
def execBgezal (rs : Reg) (offset : BitVec 16) (s : State) : Outcome :=
  branchIf (s.linkTo Config.link) (!regNegative s rs) (branchTarget s.pc offset)

/-- R266. -/
def execBeql (rs rt : Reg) (offset : BitVec 16) (s : State) : Outcome :=
  branchIf s (regsEqual s rs rt) (branchTarget s.pc offset)

/-- R267. -/
def execBnel (rs rt : Reg) (offset : BitVec 16) (s : State) : Outcome :=
  branchIf s (!regsEqual s rs rt) (branchTarget s.pc offset)

/-- R268. -/
def execBlezl (rs : Reg) (offset : BitVec 16) (s : State) : Outcome :=
  branchIf s (regNotPositive s rs) (branchTarget s.pc offset)

/-- R269. -/
def execBgtzl (rs : Reg) (offset : BitVec 16) (s : State) : Outcome :=
  branchIf s (!regNotPositive s rs) (branchTarget s.pc offset)

/-- R270. -/
def execBltzl (rs : Reg) (offset : BitVec 16) (s : State) : Outcome :=
  branchIf s (regNegative s rs) (branchTarget s.pc offset)

/-- R271. -/
def execBgezl (rs : Reg) (offset : BitVec 16) (s : State) : Outcome :=
  branchIf s (!regNegative s rs) (branchTarget s.pc offset)

/-- R272. -/
def execBltzall (rs : Reg) (offset : BitVec 16) (s : State) : Outcome :=
  branchIf (s.linkTo Config.link) (regNegative s rs) (branchTarget s.pc offset)

/-- R273. -/
def execBgezall (rs : Reg) (offset : BitVec 16) (s : State) : Outcome :=
  branchIf (s.linkTo Config.link) (!regNegative s rs) (branchTarget s.pc offset)

/-- R274, the row that specialises `BEQ r0, r0`. -/
def execB (offset : BitVec 16) (s : State) : Outcome := takeBranch s (branchTarget s.pc offset)

/-- R274, the row that specialises `BGEZ r0`. -/
def execBRegimm (offset : BitVec 16) (s : State) : Outcome := takeBranch s (branchTarget s.pc offset)

end Sys2Proof.Machine
end

