-- ==== Sys2Proof/Machine/LoadStore.lean ====
section
/-! DEFINITION. Aligned loads and stores (46_load_store.md). -/

namespace Sys2Proof.Machine

/-- `x[rt] <- extend(MemRead(ea, n))`, then `pc + 4` (R302). The access is made also where `rt` is 0. -/
def load (s : State) (rt : Reg) (ea : Dword) (n : Nat) (extend : Dword → Dword) : Outcome :=
  andThen (memRead s ea n .read) fun r => writeReg r.2 rt (extend r.1)

/-- `MemWrite(ea, n, x[rt][8n-1:0])`, then `pc + 4` (R302). -/
def store (s : State) (rt : Reg) (ea : Dword) (n : Nat) : Outcome :=
  andThen (memWrite s ea n (s.reg rt)) fun s' => .next s'.advance

/-- R291. -/
def execLb (rt : Reg) (offset : BitVec 16) (base : Reg) (s : State) : Outcome :=
  load s rt (effAddr s base offset) 1 fun v => (v.setWidth 8).signExtend 64

/-- R292. -/
def execLbu (rt : Reg) (offset : BitVec 16) (base : Reg) (s : State) : Outcome :=
  load s rt (effAddr s base offset) 1 fun v => v

/-- R293. -/
def execLh (rt : Reg) (offset : BitVec 16) (base : Reg) (s : State) : Outcome :=
  load s rt (effAddr s base offset) 2 fun v => (v.setWidth 16).signExtend 64

/-- R294. -/
def execLhu (rt : Reg) (offset : BitVec 16) (base : Reg) (s : State) : Outcome :=
  load s rt (effAddr s base offset) 2 fun v => v

/-- R295. -/
def execLw (rt : Reg) (offset : BitVec 16) (base : Reg) (s : State) : Outcome :=
  load s rt (effAddr s base offset) 4 fun v => sext64 (low32 v)

/-- R296. -/
def execLwu (rt : Reg) (offset : BitVec 16) (base : Reg) (s : State) : Outcome :=
  load s rt (effAddr s base offset) 4 fun v => v

/-- R297. -/
def execLd (rt : Reg) (offset : BitVec 16) (base : Reg) (s : State) : Outcome :=
  load s rt (effAddr s base offset) 8 fun v => v

/-- R298. -/
def execSb (rt : Reg) (offset : BitVec 16) (base : Reg) (s : State) : Outcome :=
  store s rt (effAddr s base offset) 1

/-- R299. -/
def execSh (rt : Reg) (offset : BitVec 16) (base : Reg) (s : State) : Outcome :=
  store s rt (effAddr s base offset) 2

/-- R300. -/
def execSw (rt : Reg) (offset : BitVec 16) (base : Reg) (s : State) : Outcome :=
  store s rt (effAddr s base offset) 4

/-- R301. -/
def execSd (rt : Reg) (offset : BitVec 16) (base : Reg) (s : State) : Outcome :=
  store s rt (effAddr s base offset) 8

end Sys2Proof.Machine
end

