-- ==== Sys2Proof/Machine/MulDiv.lean ====
section
/-! DEFINITION. Multiply, divide and the HI/LO accumulator (44_muldiv_hilo.md). -/

namespace Sys2Proof.Machine

/-- R230. -/
def execMult (rs rt : Reg) (s : State) : Outcome :=
  .next (s.setHilo64 (sext64 (s.reg32 rs) * sext64 (s.reg32 rt))).advance

/-- R231. -/
def execMultu (rs rt : Reg) (s : State) : Outcome :=
  .next (s.setHilo64 ((s.reg32 rs).setWidth 64 * (s.reg32 rt).setWidth 64)).advance

/-- Write HI and LO after a division: the draw where the divisor is zero, else remainder and quotient (R232, R233; log 2). -/
def writeDivision (s : State) (op : DivOp) (a b quotient remainder : Word) : Outcome :=
  let draw := Config.div0 op a b
  let hi := if b = 0#32 then draw.1 else remainder
  let lo := if b = 0#32 then draw.2 else quotient
  .next (s.setHiLo hi lo).advance

/-- R232. `BitVec.sdiv` rounds toward zero and wraps `-2^31 / -1` to `-2^31`, `BitVec.srem` has the sign of the dividend. -/
def execDiv (rs rt : Reg) (s : State) : Outcome :=
  writeDivision s .signed (s.reg32 rs) (s.reg32 rt) ((s.reg32 rs).sdiv (s.reg32 rt)) ((s.reg32 rs).srem (s.reg32 rt))

/-- R233. -/
def execDivu (rs rt : Reg) (s : State) : Outcome :=
  writeDivision s .unsigned (s.reg32 rs) (s.reg32 rt) (s.reg32 rs / s.reg32 rt) (s.reg32 rs % s.reg32 rt)

/-- R234. -/
def execMfhi (rd : Reg) (s : State) : Outcome := writeReg s rd (sext64 s.hi)

/-- R235. -/
def execMthi (rs : Reg) (s : State) : Outcome := .next (s.setHiLo (s.reg32 rs) s.lo).advance

/-- R236. -/
def execMflo (rd : Reg) (s : State) : Outcome := writeReg s rd (sext64 s.lo)

/-- R237. -/
def execMtlo (rs : Reg) (s : State) : Outcome := .next (s.setHiLo s.hi (s.reg32 rs)).advance

end Sys2Proof.Machine
end

