-- ==== Sys2Proof/Machine/PartialWord.lean ====
section
/-! DEFINITION. Partial-word loads and stores, as single-byte accesses in ascending order (47_unaligned_load_store.md). -/

namespace Sys2Proof.Machine

/-- "Left" load: the bytes from `va` to the end of its block replace the most significant bytes of the old register (R320). -/
def loadLeft (s : State) (rt : Reg) (va : Word) (size : Nat) (extend : Dword → Dword) : Outcome :=
  andThen (readEach s (leftAddrs va size)) fun r =>
    writeReg r.2 rt (extend (beValue (r.1 ++ (beBytes size (s.reg rt)).drop (size - blockPos va size))))

/-- "Right" load: the bytes from the start of the block to `va` replace the least significant bytes of the old register
(R320). -/
def loadRight (s : State) (rt : Reg) (va : Word) (size : Nat) (extend : Dword → Dword) : Outcome :=
  andThen (readEach s (rightAddrs va size)) fun r =>
    writeReg r.2 rt (extend (beValue ((beBytes size (s.reg rt)).take (size - 1 - blockPos va size) ++ r.1)))

/-- "Left" store: the most significant bytes of the register go to `va` and the bytes after it in its block (R320). -/
def storeLeft (s : State) (rt : Reg) (va : Word) (size : Nat) : Outcome :=
  andThen (writeEach s ((leftAddrs va size).zip (beBytes size (s.reg rt)))) fun s' => .next s'.advance

/-- "Right" store: the least significant bytes of the register go to the start of the block up to `va` (R320). -/
def storeRight (s : State) (rt : Reg) (va : Word) (size : Nat) : Outcome :=
  andThen (writeEach s ((rightAddrs va size).zip ((beBytes size (s.reg rt)).drop (size - 1 - blockPos va size))))
    fun s' => .next s'.advance

/-- R321. -/
def execLwl (rt : Reg) (offset : BitVec 16) (base : Reg) (s : State) : Outcome :=
  loadLeft s rt (low32 (effAddr s base offset)) 4 fun v => sext64 (low32 v)

/-- R322. -/
def execLwr (rt : Reg) (offset : BitVec 16) (base : Reg) (s : State) : Outcome :=
  loadRight s rt (low32 (effAddr s base offset)) 4 fun v => sext64 (low32 v)

/-- R323. -/
def execSwl (rt : Reg) (offset : BitVec 16) (base : Reg) (s : State) : Outcome :=
  storeLeft s rt (low32 (effAddr s base offset)) 4

/-- R324. -/
def execSwr (rt : Reg) (offset : BitVec 16) (base : Reg) (s : State) : Outcome :=
  storeRight s rt (low32 (effAddr s base offset)) 4

/-- R325. -/
def execLdl (rt : Reg) (offset : BitVec 16) (base : Reg) (s : State) : Outcome :=
  loadLeft s rt (low32 (effAddr s base offset)) 8 fun v => v

/-- R326. -/
def execLdr (rt : Reg) (offset : BitVec 16) (base : Reg) (s : State) : Outcome :=
  loadRight s rt (low32 (effAddr s base offset)) 8 fun v => v

/-- R327. -/
def execSdl (rt : Reg) (offset : BitVec 16) (base : Reg) (s : State) : Outcome :=
  storeLeft s rt (low32 (effAddr s base offset)) 8

/-- R328. -/
def execSdr (rt : Reg) (offset : BitVec 16) (base : Reg) (s : State) : Outcome :=
  storeRight s rt (low32 (effAddr s base offset)) 8

end Sys2Proof.Machine
end

