-- ==== Sys2Proof/Machine/Shifts.lean ====
section
/-! DEFINITION. Shifts (43_shifts.md). -/

namespace Sys2Proof.Machine

/-- R211. -/
def execSll (rd rt : Reg) (sa : BitVec 5) (s : State) : Outcome := writeReg s rd (sext64 (s.reg32 rt <<< sa.toNat))

/-- R212. -/
def execSrl (rd rt : Reg) (sa : BitVec 5) (s : State) : Outcome := writeReg s rd (sext64 (s.reg32 rt >>> sa.toNat))

/-- R213. -/
def execSra (rd rt : Reg) (sa : BitVec 5) (s : State) : Outcome :=
  writeReg s rd (sext64 ((s.reg32 rt).sshiftRight sa.toNat))

/-- R214. -/
def execSllv (rd rt rs : Reg) (s : State) : Outcome :=
  writeReg s rd (sext64 (s.reg32 rt <<< shiftAmount32 s rs))

/-- R215. -/
def execSrlv (rd rt rs : Reg) (s : State) : Outcome :=
  writeReg s rd (sext64 (s.reg32 rt >>> shiftAmount32 s rs))

/-- R216. -/
def execSrav (rd rt rs : Reg) (s : State) : Outcome :=
  writeReg s rd (sext64 ((s.reg32 rt).sshiftRight (shiftAmount32 s rs)))

/-- R217. -/
def execDsll (rd rt : Reg) (sa : BitVec 5) (s : State) : Outcome := writeReg s rd (s.reg rt <<< sa.toNat)

/-- R218. -/
def execDsrl (rd rt : Reg) (sa : BitVec 5) (s : State) : Outcome := writeReg s rd (s.reg rt >>> sa.toNat)

/-- R219. -/
def execDsra (rd rt : Reg) (sa : BitVec 5) (s : State) : Outcome :=
  writeReg s rd ((s.reg rt).sshiftRight sa.toNat)

/-- R220. -/
def execDsll32 (rd rt : Reg) (sa : BitVec 5) (s : State) : Outcome :=
  writeReg s rd (s.reg rt <<< (sa.toNat + 32))

/-- R221. -/
def execDsrl32 (rd rt : Reg) (sa : BitVec 5) (s : State) : Outcome :=
  writeReg s rd (s.reg rt >>> (sa.toNat + 32))

/-- R222. -/
def execDsra32 (rd rt : Reg) (sa : BitVec 5) (s : State) : Outcome :=
  writeReg s rd ((s.reg rt).sshiftRight (sa.toNat + 32))

/-- R223. -/
def execDsllv (rd rt rs : Reg) (s : State) : Outcome := writeReg s rd (s.reg rt <<< shiftAmount64 s rs)

/-- R224. -/
def execDsrlv (rd rt rs : Reg) (s : State) : Outcome := writeReg s rd (s.reg rt >>> shiftAmount64 s rs)

/-- R225. -/
def execDsrav (rd rt rs : Reg) (s : State) : Outcome :=
  writeReg s rd ((s.reg rt).sshiftRight (shiftAmount64 s rs))

end Sys2Proof.Machine
end

