-- ==== Sys2Proof/Machine/SystemControl.lean ====
section
/-! DEFINITION. System-control register moves, no-ops and unsupported operations (48_cop0_system.md). -/

namespace Sys2Proof.Machine

/-- A move to a system-control register: only the four writable ones, else `UnsupportedRegisterWrite` (R343, R344). -/
def moveToCop0 (s : State) (number : Reg) (v : Dword) : Outcome :=
  if number ∈ Config.cop0Writable then .next (s.setCop0 number v).advance
  else raise s (.unsupportedRegisterWrite number)

/-- R341. -/
def execMfc0 (rt number : Reg) (s : State) : Outcome := writeReg s rt (sext64 (low32 (s.cop0 number)))

/-- R342. -/
def execDmfc0 (rt number : Reg) (s : State) : Outcome := writeReg s rt (s.cop0 number)

/-- R343. -/
def execMtc0 (rt number : Reg) (s : State) : Outcome := moveToCop0 s number (sext64 (s.reg32 rt))

/-- R344. -/
def execDmtc0 (rt number : Reg) (s : State) : Outcome := moveToCop0 s number (s.reg rt)

/-- R345. -/
def execSync (s : State) : Outcome := .next s.advance

/-- R346. No address is computed and no operation code has an effect. -/
def execCache (_op : BitVec 5) (_offset : BitVec 16) (_base : Reg) (s : State) : Outcome := .next s.advance

/-- R347. -/
def execNop (s : State) : Outcome := .next s.advance

/-- R349. -/
def execSyscall (_code : BitVec 20) (s : State) : Outcome := unsupported s "SYSCALL"

/-- R350. -/
def execBreak (_code : BitVec 20) (s : State) : Outcome := unsupported s "BREAK"

/-- R351. -/
def execEret (s : State) : Outcome := unsupported s "ERET"

/-- R352. -/
def execTlbr (s : State) : Outcome := unsupported s "TLBR"

/-- R353. -/
def execTlbwi (s : State) : Outcome := unsupported s "TLBWI"

/-- R354. -/
def execTlbwr (s : State) : Outcome := unsupported s "TLBWR"

/-- R355. -/
def execTlbp (s : State) : Outcome := unsupported s "TLBP"

/-- R356. -/
def execLwc1 (_ft : Reg) (_offset : BitVec 16) (_base : Reg) (s : State) : Outcome := unsupported s "LWC1"

/-- R357. -/
def execLdc1 (_ft : Reg) (_offset : BitVec 16) (_base : Reg) (s : State) : Outcome := unsupported s "LDC1"

/-- R358. -/
def execCop1 (_cofun : BitVec 26) (s : State) : Outcome := unsupported s "COP1"

/-- R359. -/
def execSwc1 (_ft : Reg) (_offset : BitVec 16) (_base : Reg) (s : State) : Outcome := unsupported s "SWC1"

/-- R360. -/
def execSdc1 (_ft : Reg) (_offset : BitVec 16) (_base : Reg) (s : State) : Outcome := unsupported s "SDC1"

end Sys2Proof.Machine
end

