-- ==== Sys2Proof/Syntax.lean ====
section
/-! DEFINITION. The instructions: one constructor per row of the instruction table (30_encoding.md R118),
in match order, operands in the order of the table's Operands column (R128). -/

namespace Sys2Proof

/-- The instructions of 30_encoding.md R118. Every field is as wide as its field of the word, so a term is ill-formed
only where an earlier, more specific row owns its word (WellFormed.lean). `b` and `bRegimm` are the two rows of mnemonic `B`. -/
inductive Instr where
  /-- Row 1, `NOP`: R347. -/
  | nop
  /-- Row 2, `B offset`: R274. -/
  | b (offset : BitVec 16)
  /-- Row 3, `B offset`: R274. -/
  | bRegimm (offset : BitVec 16)
  /-- Row 4, `SLL rd, rt, sa`: R211. -/
  | sll (rd : Reg) (rt : Reg) (sa : BitVec 5)
  /-- Row 5, `SRL rd, rt, sa`: R212. -/
  | srl (rd : Reg) (rt : Reg) (sa : BitVec 5)
  /-- Row 6, `SRA rd, rt, sa`: R213. -/
  | sra (rd : Reg) (rt : Reg) (sa : BitVec 5)
  /-- Row 7, `SLLV rd, rt, rs`: R214. -/
  | sllv (rd : Reg) (rt : Reg) (rs : Reg)
  /-- Row 8, `SRLV rd, rt, rs`: R215. -/
  | srlv (rd : Reg) (rt : Reg) (rs : Reg)
  /-- Row 9, `SRAV rd, rt, rs`: R216. -/
  | srav (rd : Reg) (rt : Reg) (rs : Reg)
  /-- Row 10, `JR rs`: R256. -/
  | jr (rs : Reg)
  /-- Row 11, `JALR rd, rs`: R257. -/
  | jalr (rd : Reg) (rs : Reg)
  /-- Row 12, `SYSCALL code`: R349. -/
  | syscall (code : BitVec 20)
  /-- Row 13, `BREAK code`: R350. -/
  | breakI (code : BitVec 20)
  /-- Row 14, `SYNC`: R345. -/
  | sync
  /-- Row 15, `MFHI rd`: R234. -/
  | mfhi (rd : Reg)
  /-- Row 16, `MTHI rs`: R235. -/
  | mthi (rs : Reg)
  /-- Row 17, `MFLO rd`: R236. -/
  | mflo (rd : Reg)
  /-- Row 18, `MTLO rs`: R237. -/
  | mtlo (rs : Reg)
  /-- Row 19, `DSLLV rd, rt, rs`: R223. -/
  | dsllv (rd : Reg) (rt : Reg) (rs : Reg)
  /-- Row 20, `DSRLV rd, rt, rs`: R224. -/
  | dsrlv (rd : Reg) (rt : Reg) (rs : Reg)
  /-- Row 21, `DSRAV rd, rt, rs`: R225. -/
  | dsrav (rd : Reg) (rt : Reg) (rs : Reg)
  /-- Row 22, `MULT rs, rt`: R230. -/
  | mult (rs : Reg) (rt : Reg)
  /-- Row 23, `MULTU rs, rt`: R231. -/
  | multu (rs : Reg) (rt : Reg)
  /-- Row 24, `DIV rs, rt`: R232. -/
  | div (rs : Reg) (rt : Reg)
  /-- Row 25, `DIVU rs, rt`: R233. -/
  | divu (rs : Reg) (rt : Reg)
  /-- Row 26, `ADD rd, rs, rt`: R181. -/
  | add (rd : Reg) (rs : Reg) (rt : Reg)
  /-- Row 27, `ADDU rd, rs, rt`: R182. -/
  | addu (rd : Reg) (rs : Reg) (rt : Reg)
  /-- Row 28, `SUB rd, rs, rt`: R183. -/
  | sub (rd : Reg) (rs : Reg) (rt : Reg)
  /-- Row 29, `SUBU rd, rs, rt`: R184. -/
  | subu (rd : Reg) (rs : Reg) (rt : Reg)
  /-- Row 30, `AND rd, rs, rt`: R185. -/
  | and (rd : Reg) (rs : Reg) (rt : Reg)
  /-- Row 31, `OR rd, rs, rt`: R186. -/
  | or (rd : Reg) (rs : Reg) (rt : Reg)
  /-- Row 32, `XOR rd, rs, rt`: R187. -/
  | xor (rd : Reg) (rs : Reg) (rt : Reg)
  /-- Row 33, `NOR rd, rs, rt`: R188. -/
  | nor (rd : Reg) (rs : Reg) (rt : Reg)
  /-- Row 34, `SLT rd, rs, rt`: R189. -/
  | slt (rd : Reg) (rs : Reg) (rt : Reg)
  /-- Row 35, `SLTU rd, rs, rt`: R190. -/
  | sltu (rd : Reg) (rs : Reg) (rt : Reg)
  /-- Row 36, `DADD rd, rs, rt`: R191. -/
  | dadd (rd : Reg) (rs : Reg) (rt : Reg)
  /-- Row 37, `DADDU rd, rs, rt`: R192. -/
  | daddu (rd : Reg) (rs : Reg) (rt : Reg)
  /-- Row 38, `DSUB rd, rs, rt`: R193. -/
  | dsub (rd : Reg) (rs : Reg) (rt : Reg)
  /-- Row 39, `DSUBU rd, rs, rt`: R194. -/
  | dsubu (rd : Reg) (rs : Reg) (rt : Reg)
  /-- Row 40, `DSLL rd, rt, sa`: R217. -/
  | dsll (rd : Reg) (rt : Reg) (sa : BitVec 5)
  /-- Row 41, `DSRL rd, rt, sa`: R218. -/
  | dsrl (rd : Reg) (rt : Reg) (sa : BitVec 5)
  /-- Row 42, `DSRA rd, rt, sa`: R219. -/
  | dsra (rd : Reg) (rt : Reg) (sa : BitVec 5)
  /-- Row 43, `DSLL32 rd, rt, sa`: R220. -/
  | dsll32 (rd : Reg) (rt : Reg) (sa : BitVec 5)
  /-- Row 44, `DSRL32 rd, rt, sa`: R221. -/
  | dsrl32 (rd : Reg) (rt : Reg) (sa : BitVec 5)
  /-- Row 45, `DSRA32 rd, rt, sa`: R222. -/
  | dsra32 (rd : Reg) (rt : Reg) (sa : BitVec 5)
  /-- Row 46, `BLTZ rs, offset`: R262. -/
  | bltz (rs : Reg) (offset : BitVec 16)
  /-- Row 47, `BGEZ rs, offset`: R263. -/
  | bgez (rs : Reg) (offset : BitVec 16)
  /-- Row 48, `BLTZL rs, offset`: R270. -/
  | bltzl (rs : Reg) (offset : BitVec 16)
  /-- Row 49, `BGEZL rs, offset`: R271. -/
  | bgezl (rs : Reg) (offset : BitVec 16)
  /-- Row 50, `BLTZAL rs, offset`: R264. -/
  | bltzal (rs : Reg) (offset : BitVec 16)
  /-- Row 51, `BGEZAL rs, offset`: R265. -/
  | bgezal (rs : Reg) (offset : BitVec 16)
  /-- Row 52, `BLTZALL rs, offset`: R272. -/
  | bltzall (rs : Reg) (offset : BitVec 16)
  /-- Row 53, `BGEZALL rs, offset`: R273. -/
  | bgezall (rs : Reg) (offset : BitVec 16)
  /-- Row 54, `J target`: R254. -/
  | j (target : BitVec 26)
  /-- Row 55, `JAL target`: R255. -/
  | jal (target : BitVec 26)
  /-- Row 56, `BEQ rs, rt, offset`: R258. -/
  | beq (rs : Reg) (rt : Reg) (offset : BitVec 16)
  /-- Row 57, `BNE rs, rt, offset`: R259. -/
  | bne (rs : Reg) (rt : Reg) (offset : BitVec 16)
  /-- Row 58, `BLEZ rs, offset`: R260. -/
  | blez (rs : Reg) (offset : BitVec 16)
  /-- Row 59, `BGTZ rs, offset`: R261. -/
  | bgtz (rs : Reg) (offset : BitVec 16)
  /-- Row 60, `ADDI rt, rs, imm`: R161. -/
  | addi (rt : Reg) (rs : Reg) (imm : BitVec 16)
  /-- Row 61, `ADDIU rt, rs, imm`: R162. -/
  | addiu (rt : Reg) (rs : Reg) (imm : BitVec 16)
  /-- Row 62, `SLTI rt, rs, imm`: R163. -/
  | slti (rt : Reg) (rs : Reg) (imm : BitVec 16)
  /-- Row 63, `SLTIU rt, rs, imm`: R164. -/
  | sltiu (rt : Reg) (rs : Reg) (imm : BitVec 16)
  /-- Row 64, `ANDI rt, rs, imm`: R165. -/
  | andi (rt : Reg) (rs : Reg) (imm : BitVec 16)
  /-- Row 65, `ORI rt, rs, imm`: R166. -/
  | ori (rt : Reg) (rs : Reg) (imm : BitVec 16)
  /-- Row 66, `XORI rt, rs, imm`: R167. -/
  | xori (rt : Reg) (rs : Reg) (imm : BitVec 16)
  /-- Row 67, `LUI rt, imm`: R168. -/
  | lui (rt : Reg) (imm : BitVec 16)
  /-- Row 68, `MFC0 rt, rd`: R341. -/
  | mfc0 (rt : Reg) (rd : Reg)
  /-- Row 69, `DMFC0 rt, rd`: R342. -/
  | dmfc0 (rt : Reg) (rd : Reg)
  /-- Row 70, `MTC0 rt, rd`: R343. -/
  | mtc0 (rt : Reg) (rd : Reg)
  /-- Row 71, `DMTC0 rt, rd`: R344. -/
  | dmtc0 (rt : Reg) (rd : Reg)
  /-- Row 72, `TLBR`: R352. -/
  | tlbr
  /-- Row 73, `TLBWI`: R353. -/
  | tlbwi
  /-- Row 74, `TLBWR`: R354. -/
  | tlbwr
  /-- Row 75, `TLBP`: R355. -/
  | tlbp
  /-- Row 76, `ERET`: R351. -/
  | eret
  /-- Row 77, `COP1 cofun`: R358. -/
  | cop1 (cofun : BitVec 26)
  /-- Row 78, `BEQL rs, rt, offset`: R266. -/
  | beql (rs : Reg) (rt : Reg) (offset : BitVec 16)
  /-- Row 79, `BNEL rs, rt, offset`: R267. -/
  | bnel (rs : Reg) (rt : Reg) (offset : BitVec 16)
  /-- Row 80, `BLEZL rs, offset`: R268. -/
  | blezl (rs : Reg) (offset : BitVec 16)
  /-- Row 81, `BGTZL rs, offset`: R269. -/
  | bgtzl (rs : Reg) (offset : BitVec 16)
  /-- Row 82, `DADDI rt, rs, imm`: R169. -/
  | daddi (rt : Reg) (rs : Reg) (imm : BitVec 16)
  /-- Row 83, `DADDIU rt, rs, imm`: R170. -/
  | daddiu (rt : Reg) (rs : Reg) (imm : BitVec 16)
  /-- Row 84, `LDL rt, offset(base)`: R325. -/
  | ldl (rt : Reg) (offset : BitVec 16) (base : Reg)
  /-- Row 85, `LDR rt, offset(base)`: R326. -/
  | ldr (rt : Reg) (offset : BitVec 16) (base : Reg)
  /-- Row 86, `LB rt, offset(base)`: R291. -/
  | lb (rt : Reg) (offset : BitVec 16) (base : Reg)
  /-- Row 87, `LH rt, offset(base)`: R293. -/
  | lh (rt : Reg) (offset : BitVec 16) (base : Reg)
  /-- Row 88, `LWL rt, offset(base)`: R321. -/
  | lwl (rt : Reg) (offset : BitVec 16) (base : Reg)
  /-- Row 89, `LW rt, offset(base)`: R295. -/
  | lw (rt : Reg) (offset : BitVec 16) (base : Reg)
  /-- Row 90, `LBU rt, offset(base)`: R292. -/
  | lbu (rt : Reg) (offset : BitVec 16) (base : Reg)
  /-- Row 91, `LHU rt, offset(base)`: R294. -/
  | lhu (rt : Reg) (offset : BitVec 16) (base : Reg)
  /-- Row 92, `LWR rt, offset(base)`: R322. -/
  | lwr (rt : Reg) (offset : BitVec 16) (base : Reg)
  /-- Row 93, `LWU rt, offset(base)`: R296. -/
  | lwu (rt : Reg) (offset : BitVec 16) (base : Reg)
  /-- Row 94, `SB rt, offset(base)`: R298. -/
  | sb (rt : Reg) (offset : BitVec 16) (base : Reg)
  /-- Row 95, `SH rt, offset(base)`: R299. -/
  | sh (rt : Reg) (offset : BitVec 16) (base : Reg)
  /-- Row 96, `SWL rt, offset(base)`: R323. -/
  | swl (rt : Reg) (offset : BitVec 16) (base : Reg)
  /-- Row 97, `SW rt, offset(base)`: R300. -/
  | sw (rt : Reg) (offset : BitVec 16) (base : Reg)
  /-- Row 98, `SDL rt, offset(base)`: R327. -/
  | sdl (rt : Reg) (offset : BitVec 16) (base : Reg)
  /-- Row 99, `SDR rt, offset(base)`: R328. -/
  | sdr (rt : Reg) (offset : BitVec 16) (base : Reg)
  /-- Row 100, `SWR rt, offset(base)`: R324. -/
  | swr (rt : Reg) (offset : BitVec 16) (base : Reg)
  /-- Row 101, `CACHE op, offset(base)`: R346. -/
  | cache (op : BitVec 5) (offset : BitVec 16) (base : Reg)
  /-- Row 102, `LWC1 ft, offset(base)`: R356. -/
  | lwc1 (ft : Reg) (offset : BitVec 16) (base : Reg)
  /-- Row 103, `LDC1 ft, offset(base)`: R357. -/
  | ldc1 (ft : Reg) (offset : BitVec 16) (base : Reg)
  /-- Row 104, `LD rt, offset(base)`: R297. -/
  | ld (rt : Reg) (offset : BitVec 16) (base : Reg)
  /-- Row 105, `SWC1 ft, offset(base)`: R359. -/
  | swc1 (ft : Reg) (offset : BitVec 16) (base : Reg)
  /-- Row 106, `SDC1 ft, offset(base)`: R360. -/
  | sdc1 (ft : Reg) (offset : BitVec 16) (base : Reg)
  /-- Row 107, `SD rt, offset(base)`: R301. -/
  | sd (rt : Reg) (offset : BitVec 16) (base : Reg)
deriving DecidableEq, Repr

end Sys2Proof
end

