-- ==== Sys2Proof/WellFormed.lean ====
section
/-! DEFINITION. Which instruction terms are well-formed: those whose word no earlier row of the table claims
(30_encoding.md R117, R131). Field widths are in the types. -/

namespace Sys2Proof

/-- The three words of a general row that an earlier, more specific row owns: `SLL r0, r0, 0` is `NOP`, `BEQ r0, r0, off`
and `BGEZ r0, off` are `B` (30_encoding.md R117, R131). Every other term is well-formed. -/
def Instr.wf : Instr → Bool
  | .sll rd rt sa => !(rd == 0#5 && rt == 0#5 && sa == 0#5)
  | .beq rs rt _ => !(rs == 0#5 && rt == 0#5)
  | .bgez rs _ => rs != 0#5
  | .nop | .b _ | .bRegimm _ | .srl _ _ _ | .sra _ _ _ | .sllv _ _ _ | .srlv _ _ _ | .srav _ _ _ | .jr _ | .jalr _ _
  | .syscall _ | .breakI _ | .sync | .mfhi _ | .mthi _ | .mflo _ | .mtlo _ | .dsllv _ _ _ | .dsrlv _ _ _
  | .dsrav _ _ _ | .mult _ _ | .multu _ _ | .div _ _ | .divu _ _ | .add _ _ _ | .addu _ _ _ | .sub _ _ _
  | .subu _ _ _ | .and _ _ _ | .or _ _ _ | .xor _ _ _ | .nor _ _ _ | .slt _ _ _ | .sltu _ _ _ | .dadd _ _ _
  | .daddu _ _ _ | .dsub _ _ _ | .dsubu _ _ _ | .dsll _ _ _ | .dsrl _ _ _ | .dsra _ _ _ | .dsll32 _ _ _
  | .dsrl32 _ _ _ | .dsra32 _ _ _ | .bltz _ _ | .bltzl _ _ | .bgezl _ _ | .bltzal _ _ | .bgezal _ _ | .bltzall _ _
  | .bgezall _ _ | .j _ | .jal _ | .bne _ _ _ | .blez _ _ | .bgtz _ _ | .addi _ _ _ | .addiu _ _ _ | .slti _ _ _
  | .sltiu _ _ _ | .andi _ _ _ | .ori _ _ _ | .xori _ _ _ | .lui _ _ | .mfc0 _ _ | .dmfc0 _ _ | .mtc0 _ _
  | .dmtc0 _ _ | .tlbr | .tlbwi | .tlbwr | .tlbp | .eret | .cop1 _ | .beql _ _ _ | .bnel _ _ _ | .blezl _ _
  | .bgtzl _ _ | .daddi _ _ _ | .daddiu _ _ _ | .ldl _ _ _ | .ldr _ _ _ | .lb _ _ _ | .lh _ _ _ | .lwl _ _ _
  | .lw _ _ _ | .lbu _ _ _ | .lhu _ _ _ | .lwr _ _ _ | .lwu _ _ _ | .sb _ _ _ | .sh _ _ _ | .swl _ _ _ | .sw _ _ _
  | .sdl _ _ _ | .sdr _ _ _ | .swr _ _ _ | .cache _ _ _ | .lwc1 _ _ _ | .ldc1 _ _ _ | .ld _ _ _ | .swc1 _ _ _
  | .sdc1 _ _ _ | .sd _ _ _ => true

end Sys2Proof
end

