-- ==== Sys2Proof/Decode.lean ====
section
/-! DEFINITION. The instruction table and its decoder, then the encoder (30_encoding.md). -/

namespace Sys2Proof

/-! ### Fields of a word (30_encoding.md R111) -/

/-- `w[31:26]`, the primary opcode. -/
def fieldOpcode (w : Word) : BitVec 6 := w.extractLsb' 26 6
/-- `w[25:21]`; `base` of a load or store. -/
def fieldRs (w : Word) : BitVec 5 := w.extractLsb' 21 5
/-- `w[20:16]`; `ft` of a coprocessor-1 load or store, `op` of `CACHE`. -/
def fieldRt (w : Word) : BitVec 5 := w.extractLsb' 16 5
/-- `w[15:11]`. -/
def fieldRd (w : Word) : BitVec 5 := w.extractLsb' 11 5
/-- `w[10:6]`. -/
def fieldSa (w : Word) : BitVec 5 := w.extractLsb' 6 5
/-- `w[5:0]`. -/
def fieldFunct (w : Word) : BitVec 6 := w.extractLsb' 0 6
/-- `w[15:0]`: immediate, offset. -/
def fieldImm (w : Word) : BitVec 16 := w.extractLsb' 0 16
/-- `w[25:0]`: the jump target field; `cofun` of `COP1`. -/
def fieldTarget (w : Word) : BitVec 26 := w.extractLsb' 0 26
/-- `w[25:6]`: the free code of `SYSCALL` and `BREAK`. -/
def fieldCode (w : Word) : BitVec 20 := w.extractLsb' 6 20

/-! ### The instruction table (30_encoding.md R115, R118) -/

/-- One row of the table: the mask, the expected bits, and the instruction a matching word stands for.
Mnemonic and kind are functions of the instruction (`Instr.mnemonic`, `Instr.kind`). -/
structure Descriptor where
  mask : Word
  expected : Word
  build : Word → Instr

/-- `(w & mask) = expected` (R116). -/
def Descriptor.matches (d : Descriptor) (w : Word) : Bool := w &&& d.mask == d.expected

/-- Rows 1 to 3: the aliases, registered before the rows they specialise (R117). -/
def tableAliases : List Descriptor := [
  ⟨0xFFFFFFFF, 0x00000000, fun _ => .nop⟩,
  ⟨0xFFFF0000, 0x10000000, fun w => .b (fieldImm w)⟩,
  ⟨0xFFFF0000, 0x04010000, fun w => .bRegimm (fieldImm w)⟩]

/-- Rows 4 to 9: the 32-bit shifts. -/
def tableShifts : List Descriptor := [
  ⟨0xFFE0003F, 0x00000000, fun w => .sll (fieldRd w) (fieldRt w) (fieldSa w)⟩,
  ⟨0xFFE0003F, 0x00000002, fun w => .srl (fieldRd w) (fieldRt w) (fieldSa w)⟩,
  ⟨0xFFE0003F, 0x00000003, fun w => .sra (fieldRd w) (fieldRt w) (fieldSa w)⟩,
  ⟨0xFC0007FF, 0x00000004, fun w => .sllv (fieldRd w) (fieldRt w) (fieldRs w)⟩,
  ⟨0xFC0007FF, 0x00000006, fun w => .srlv (fieldRd w) (fieldRt w) (fieldRs w)⟩,
  ⟨0xFC0007FF, 0x00000007, fun w => .srav (fieldRd w) (fieldRt w) (fieldRs w)⟩]

/-- Rows 10 to 25: jumps by register, `SYSCALL`, `BREAK`, `SYNC`, the accumulator, the 64-bit variable shifts. -/
def tableSpecial : List Descriptor := [
  ⟨0xFC1FFFFF, 0x00000008, fun w => .jr (fieldRs w)⟩,
  ⟨0xFC1F07FF, 0x00000009, fun w => .jalr (fieldRd w) (fieldRs w)⟩,
  ⟨0xFC00003F, 0x0000000C, fun w => .syscall (fieldCode w)⟩,
  ⟨0xFC00003F, 0x0000000D, fun w => .breakI (fieldCode w)⟩,
  ⟨0xFFFFFFFF, 0x0000000F, fun _ => .sync⟩,
  ⟨0xFFFF07FF, 0x00000010, fun w => .mfhi (fieldRd w)⟩,
  ⟨0xFC1FFFFF, 0x00000011, fun w => .mthi (fieldRs w)⟩,
  ⟨0xFFFF07FF, 0x00000012, fun w => .mflo (fieldRd w)⟩,
  ⟨0xFC1FFFFF, 0x00000013, fun w => .mtlo (fieldRs w)⟩,
  ⟨0xFC0007FF, 0x00000014, fun w => .dsllv (fieldRd w) (fieldRt w) (fieldRs w)⟩,
  ⟨0xFC0007FF, 0x00000016, fun w => .dsrlv (fieldRd w) (fieldRt w) (fieldRs w)⟩,
  ⟨0xFC0007FF, 0x00000017, fun w => .dsrav (fieldRd w) (fieldRt w) (fieldRs w)⟩,
  ⟨0xFC00FFFF, 0x00000018, fun w => .mult (fieldRs w) (fieldRt w)⟩,
  ⟨0xFC00FFFF, 0x00000019, fun w => .multu (fieldRs w) (fieldRt w)⟩,
  ⟨0xFC00FFFF, 0x0000001A, fun w => .div (fieldRs w) (fieldRt w)⟩,
  ⟨0xFC00FFFF, 0x0000001B, fun w => .divu (fieldRs w) (fieldRt w)⟩]

/-- Rows 26 to 45: three-register arithmetic and the 64-bit shifts. -/
def tableRegister : List Descriptor := [
  ⟨0xFC0007FF, 0x00000020, fun w => .add (fieldRd w) (fieldRs w) (fieldRt w)⟩,
  ⟨0xFC0007FF, 0x00000021, fun w => .addu (fieldRd w) (fieldRs w) (fieldRt w)⟩,
  ⟨0xFC0007FF, 0x00000022, fun w => .sub (fieldRd w) (fieldRs w) (fieldRt w)⟩,
  ⟨0xFC0007FF, 0x00000023, fun w => .subu (fieldRd w) (fieldRs w) (fieldRt w)⟩,
  ⟨0xFC0007FF, 0x00000024, fun w => .and (fieldRd w) (fieldRs w) (fieldRt w)⟩,
  ⟨0xFC0007FF, 0x00000025, fun w => .or (fieldRd w) (fieldRs w) (fieldRt w)⟩,
  ⟨0xFC0007FF, 0x00000026, fun w => .xor (fieldRd w) (fieldRs w) (fieldRt w)⟩,
  ⟨0xFC0007FF, 0x00000027, fun w => .nor (fieldRd w) (fieldRs w) (fieldRt w)⟩,
  ⟨0xFC0007FF, 0x0000002A, fun w => .slt (fieldRd w) (fieldRs w) (fieldRt w)⟩,
  ⟨0xFC0007FF, 0x0000002B, fun w => .sltu (fieldRd w) (fieldRs w) (fieldRt w)⟩,
  ⟨0xFC0007FF, 0x0000002C, fun w => .dadd (fieldRd w) (fieldRs w) (fieldRt w)⟩,
  ⟨0xFC0007FF, 0x0000002D, fun w => .daddu (fieldRd w) (fieldRs w) (fieldRt w)⟩,
  ⟨0xFC0007FF, 0x0000002E, fun w => .dsub (fieldRd w) (fieldRs w) (fieldRt w)⟩,
  ⟨0xFC0007FF, 0x0000002F, fun w => .dsubu (fieldRd w) (fieldRs w) (fieldRt w)⟩,
  ⟨0xFFE0003F, 0x00000038, fun w => .dsll (fieldRd w) (fieldRt w) (fieldSa w)⟩,
  ⟨0xFFE0003F, 0x0000003A, fun w => .dsrl (fieldRd w) (fieldRt w) (fieldSa w)⟩,
  ⟨0xFFE0003F, 0x0000003B, fun w => .dsra (fieldRd w) (fieldRt w) (fieldSa w)⟩,
  ⟨0xFFE0003F, 0x0000003C, fun w => .dsll32 (fieldRd w) (fieldRt w) (fieldSa w)⟩,
  ⟨0xFFE0003F, 0x0000003E, fun w => .dsrl32 (fieldRd w) (fieldRt w) (fieldSa w)⟩,
  ⟨0xFFE0003F, 0x0000003F, fun w => .dsra32 (fieldRd w) (fieldRt w) (fieldSa w)⟩]

/-- Rows 46 to 59: `REGIMM`, the jumps, the plain branches. -/
def tableBranch : List Descriptor := [
  ⟨0xFC1F0000, 0x04000000, fun w => .bltz (fieldRs w) (fieldImm w)⟩,
  ⟨0xFC1F0000, 0x04010000, fun w => .bgez (fieldRs w) (fieldImm w)⟩,
  ⟨0xFC1F0000, 0x04020000, fun w => .bltzl (fieldRs w) (fieldImm w)⟩,
  ⟨0xFC1F0000, 0x04030000, fun w => .bgezl (fieldRs w) (fieldImm w)⟩,
  ⟨0xFC1F0000, 0x04100000, fun w => .bltzal (fieldRs w) (fieldImm w)⟩,
  ⟨0xFC1F0000, 0x04110000, fun w => .bgezal (fieldRs w) (fieldImm w)⟩,
  ⟨0xFC1F0000, 0x04120000, fun w => .bltzall (fieldRs w) (fieldImm w)⟩,
  ⟨0xFC1F0000, 0x04130000, fun w => .bgezall (fieldRs w) (fieldImm w)⟩,
  ⟨0xFC000000, 0x08000000, fun w => .j (fieldTarget w)⟩,
  ⟨0xFC000000, 0x0C000000, fun w => .jal (fieldTarget w)⟩,
  ⟨0xFC000000, 0x10000000, fun w => .beq (fieldRs w) (fieldRt w) (fieldImm w)⟩,
  ⟨0xFC000000, 0x14000000, fun w => .bne (fieldRs w) (fieldRt w) (fieldImm w)⟩,
  ⟨0xFC1F0000, 0x18000000, fun w => .blez (fieldRs w) (fieldImm w)⟩,
  ⟨0xFC1F0000, 0x1C000000, fun w => .bgtz (fieldRs w) (fieldImm w)⟩]

/-- Rows 60 to 67: arithmetic with an immediate. -/
def tableImmediate : List Descriptor := [
  ⟨0xFC000000, 0x20000000, fun w => .addi (fieldRt w) (fieldRs w) (fieldImm w)⟩,
  ⟨0xFC000000, 0x24000000, fun w => .addiu (fieldRt w) (fieldRs w) (fieldImm w)⟩,
  ⟨0xFC000000, 0x28000000, fun w => .slti (fieldRt w) (fieldRs w) (fieldImm w)⟩,
  ⟨0xFC000000, 0x2C000000, fun w => .sltiu (fieldRt w) (fieldRs w) (fieldImm w)⟩,
  ⟨0xFC000000, 0x30000000, fun w => .andi (fieldRt w) (fieldRs w) (fieldImm w)⟩,
  ⟨0xFC000000, 0x34000000, fun w => .ori (fieldRt w) (fieldRs w) (fieldImm w)⟩,
  ⟨0xFC000000, 0x38000000, fun w => .xori (fieldRt w) (fieldRs w) (fieldImm w)⟩,
  ⟨0xFFE00000, 0x3C000000, fun w => .lui (fieldRt w) (fieldImm w)⟩]

/-- Rows 68 to 77: coprocessor 0 and coprocessor 1. -/
def tableCop : List Descriptor := [
  ⟨0xFFE007FF, 0x40000000, fun w => .mfc0 (fieldRt w) (fieldRd w)⟩,
  ⟨0xFFE007FF, 0x40200000, fun w => .dmfc0 (fieldRt w) (fieldRd w)⟩,
  ⟨0xFFE007FF, 0x40800000, fun w => .mtc0 (fieldRt w) (fieldRd w)⟩,
  ⟨0xFFE007FF, 0x40A00000, fun w => .dmtc0 (fieldRt w) (fieldRd w)⟩,
  ⟨0xFFFFFFFF, 0x42000001, fun _ => .tlbr⟩,
  ⟨0xFFFFFFFF, 0x42000002, fun _ => .tlbwi⟩,
  ⟨0xFFFFFFFF, 0x42000006, fun _ => .tlbwr⟩,
  ⟨0xFFFFFFFF, 0x42000008, fun _ => .tlbp⟩,
  ⟨0xFFFFFFFF, 0x42000018, fun _ => .eret⟩,
  ⟨0xFC000000, 0x44000000, fun w => .cop1 (fieldTarget w)⟩]

/-- Rows 78 to 85: the likely branches, `DADDI`, `DADDIU`, `LDL`, `LDR`. -/
def tableLikely : List Descriptor := [
  ⟨0xFC000000, 0x50000000, fun w => .beql (fieldRs w) (fieldRt w) (fieldImm w)⟩,
  ⟨0xFC000000, 0x54000000, fun w => .bnel (fieldRs w) (fieldRt w) (fieldImm w)⟩,
  ⟨0xFC1F0000, 0x58000000, fun w => .blezl (fieldRs w) (fieldImm w)⟩,
  ⟨0xFC1F0000, 0x5C000000, fun w => .bgtzl (fieldRs w) (fieldImm w)⟩,
  ⟨0xFC000000, 0x60000000, fun w => .daddi (fieldRt w) (fieldRs w) (fieldImm w)⟩,
  ⟨0xFC000000, 0x64000000, fun w => .daddiu (fieldRt w) (fieldRs w) (fieldImm w)⟩,
  ⟨0xFC000000, 0x68000000, fun w => .ldl (fieldRt w) (fieldImm w) (fieldRs w)⟩,
  ⟨0xFC000000, 0x6C000000, fun w => .ldr (fieldRt w) (fieldImm w) (fieldRs w)⟩]

/-- Rows 86 to 107: loads and stores. -/
def tableMemory : List Descriptor := [
  ⟨0xFC000000, 0x80000000, fun w => .lb (fieldRt w) (fieldImm w) (fieldRs w)⟩,
  ⟨0xFC000000, 0x84000000, fun w => .lh (fieldRt w) (fieldImm w) (fieldRs w)⟩,
  ⟨0xFC000000, 0x88000000, fun w => .lwl (fieldRt w) (fieldImm w) (fieldRs w)⟩,
  ⟨0xFC000000, 0x8C000000, fun w => .lw (fieldRt w) (fieldImm w) (fieldRs w)⟩,
  ⟨0xFC000000, 0x90000000, fun w => .lbu (fieldRt w) (fieldImm w) (fieldRs w)⟩,
  ⟨0xFC000000, 0x94000000, fun w => .lhu (fieldRt w) (fieldImm w) (fieldRs w)⟩,
  ⟨0xFC000000, 0x98000000, fun w => .lwr (fieldRt w) (fieldImm w) (fieldRs w)⟩,
  ⟨0xFC000000, 0x9C000000, fun w => .lwu (fieldRt w) (fieldImm w) (fieldRs w)⟩,
  ⟨0xFC000000, 0xA0000000, fun w => .sb (fieldRt w) (fieldImm w) (fieldRs w)⟩,
  ⟨0xFC000000, 0xA4000000, fun w => .sh (fieldRt w) (fieldImm w) (fieldRs w)⟩,
  ⟨0xFC000000, 0xA8000000, fun w => .swl (fieldRt w) (fieldImm w) (fieldRs w)⟩,
  ⟨0xFC000000, 0xAC000000, fun w => .sw (fieldRt w) (fieldImm w) (fieldRs w)⟩,
  ⟨0xFC000000, 0xB0000000, fun w => .sdl (fieldRt w) (fieldImm w) (fieldRs w)⟩,
  ⟨0xFC000000, 0xB4000000, fun w => .sdr (fieldRt w) (fieldImm w) (fieldRs w)⟩,
  ⟨0xFC000000, 0xB8000000, fun w => .swr (fieldRt w) (fieldImm w) (fieldRs w)⟩,
  ⟨0xFC000000, 0xBC000000, fun w => .cache (fieldRt w) (fieldImm w) (fieldRs w)⟩,
  ⟨0xFC000000, 0xC4000000, fun w => .lwc1 (fieldRt w) (fieldImm w) (fieldRs w)⟩,
  ⟨0xFC000000, 0xD4000000, fun w => .ldc1 (fieldRt w) (fieldImm w) (fieldRs w)⟩,
  ⟨0xFC000000, 0xDC000000, fun w => .ld (fieldRt w) (fieldImm w) (fieldRs w)⟩,
  ⟨0xFC000000, 0xE4000000, fun w => .swc1 (fieldRt w) (fieldImm w) (fieldRs w)⟩,
  ⟨0xFC000000, 0xF4000000, fun w => .sdc1 (fieldRt w) (fieldImm w) (fieldRs w)⟩,
  ⟨0xFC000000, 0xFC000000, fun w => .sd (fieldRt w) (fieldImm w) (fieldRs w)⟩]

/-- The 107 descriptors in registration order (R118). -/
def table : List Descriptor :=
  tableAliases ++ tableShifts ++ tableSpecial ++ tableRegister ++ tableBranch ++ tableImmediate ++ tableCop ++
    tableLikely ++ tableMemory

/-- `Decode` (R116): the first row that matches, `none` where no row does (R124). -/
def decodeWord (w : Word) : Option Instr :=
  (table.find? fun d => d.matches w).map fun d => d.build w

/-- Why bytes give no instruction. -/
inductive DecodeReject where
  /-- Fewer than four bytes: an instruction is one 32-bit word (R110). -/
  | truncated
  /-- The word matches no row (R124): the step's `DecodeFault`. -/
  | noRow (w : Word)
deriving DecidableEq, Repr

/-- The word of four bytes, the first the most significant (20_memory.md R62, 30_encoding.md R110). -/
def wordOfBytes (b0 b1 b2 b3 : Byte) : Word := b0 ++ b1 ++ b2 ++ b3

/-- Decode the instruction at the head of a list of bytes; the rest of the list comes with it. -/
def decodeBytes : List Byte → Except DecodeReject (Instr × List Byte)
  | b0 :: b1 :: b2 :: b3 :: rest =>
    match decodeWord (wordOfBytes b0 b1 b2 b3) with
    | some i => .ok (i, rest)
    | none => .error (.noRow (wordOfBytes b0 b1 b2 b3))
  | _ => .error .truncated

/-- The four bytes of a word as memory holds them (20_memory.md R62). -/
def bytesOfWord (w : Word) : List Byte :=
  [w.extractLsb' 24 8, w.extractLsb' 16 8, w.extractLsb' 8 8, w.extractLsb' 0 8]

/-- The word of an instruction given as `nbits` bits of `w`, the bits above `nbits` zero. -/
def tableWord (nbits w : Nat) : Word := BitVec.ofNat 32 (w % 2 ^ nbits)

/-- What the decoder reads from an instruction whose bits are `w`, numbered as the table numbers them. -/
def decodeTableWord (nbits w : Nat) : Option Instr :=
  match decodeBytes (bytesOfWord (tableWord nbits w)) with
  | .ok (i, _) => some i
  | .error _ => none

/-! ### Kind and mnemonic (30_encoding.md R118) -/

/-- The `Kind` column. -/
inductive Kind where
  /-- Advances `pc` by 4. -/
  | normal
  /-- A control transfer: faults in a delay-slot cycle. -/
  | control
  /-- The handler raises the unsupported-operation fault. -/
  | unsupported
deriving DecidableEq, Repr

/-- The kind of an instruction. -/
def Instr.kind : Instr → Kind
  | .b _ | .bRegimm _ | .jr _ | .jalr _ _ | .bltz _ _ | .bgez _ _ | .bltzl _ _ | .bgezl _ _ | .bltzal _ _
  | .bgezal _ _ | .bltzall _ _ | .bgezall _ _ | .j _ | .jal _ | .beq _ _ _ | .bne _ _ _ | .blez _ _ | .bgtz _ _
  | .beql _ _ _ | .bnel _ _ _ | .blezl _ _ | .bgtzl _ _ => .control
  | .syscall _ | .breakI _ | .tlbr | .tlbwi | .tlbwr | .tlbp | .eret | .cop1 _ | .lwc1 _ _ _ | .ldc1 _ _ _
  | .swc1 _ _ _ | .sdc1 _ _ _ => .unsupported
  | .nop | .sll _ _ _ | .srl _ _ _ | .sra _ _ _ | .sllv _ _ _ | .srlv _ _ _ | .srav _ _ _ | .sync | .mfhi _
  | .mthi _ | .mflo _ | .mtlo _ | .dsllv _ _ _ | .dsrlv _ _ _ | .dsrav _ _ _ | .mult _ _ | .multu _ _
  | .div _ _ | .divu _ _ | .add _ _ _ | .addu _ _ _ | .sub _ _ _ | .subu _ _ _ | .and _ _ _ | .or _ _ _
  | .xor _ _ _ | .nor _ _ _ | .slt _ _ _ | .sltu _ _ _ | .dadd _ _ _ | .daddu _ _ _ | .dsub _ _ _
  | .dsubu _ _ _ | .dsll _ _ _ | .dsrl _ _ _ | .dsra _ _ _ | .dsll32 _ _ _ | .dsrl32 _ _ _ | .dsra32 _ _ _
  | .addi _ _ _ | .addiu _ _ _ | .slti _ _ _ | .sltiu _ _ _ | .andi _ _ _ | .ori _ _ _ | .xori _ _ _ | .lui _ _
  | .mfc0 _ _ | .dmfc0 _ _ | .mtc0 _ _ | .dmtc0 _ _ | .daddi _ _ _ | .daddiu _ _ _ | .ldl _ _ _ | .ldr _ _ _
  | .lb _ _ _ | .lh _ _ _ | .lwl _ _ _ | .lw _ _ _ | .lbu _ _ _ | .lhu _ _ _ | .lwr _ _ _ | .lwu _ _ _
  | .sb _ _ _ | .sh _ _ _ | .swl _ _ _ | .sw _ _ _ | .sdl _ _ _ | .sdr _ _ _ | .swr _ _ _ | .cache _ _ _
  | .ld _ _ _ | .sd _ _ _ => .normal

/-- The mnemonic of an instruction. -/
def Instr.mnemonic : Instr → String
  | .nop => "NOP"
  | .b _ => "B"
  | .bRegimm _ => "B"
  | .sll _ _ _ => "SLL"
  | .srl _ _ _ => "SRL"
  | .sra _ _ _ => "SRA"
  | .sllv _ _ _ => "SLLV"
  | .srlv _ _ _ => "SRLV"
  | .srav _ _ _ => "SRAV"
  | .jr _ => "JR"
  | .jalr _ _ => "JALR"
  | .syscall _ => "SYSCALL"
  | .breakI _ => "BREAK"
  | .sync => "SYNC"
  | .mfhi _ => "MFHI"
  | .mthi _ => "MTHI"
  | .mflo _ => "MFLO"
  | .mtlo _ => "MTLO"
  | .dsllv _ _ _ => "DSLLV"
  | .dsrlv _ _ _ => "DSRLV"
  | .dsrav _ _ _ => "DSRAV"
  | .mult _ _ => "MULT"
  | .multu _ _ => "MULTU"
  | .div _ _ => "DIV"
  | .divu _ _ => "DIVU"
  | .add _ _ _ => "ADD"
  | .addu _ _ _ => "ADDU"
  | .sub _ _ _ => "SUB"
  | .subu _ _ _ => "SUBU"
  | .and _ _ _ => "AND"
  | .or _ _ _ => "OR"
  | .xor _ _ _ => "XOR"
  | .nor _ _ _ => "NOR"
  | .slt _ _ _ => "SLT"
  | .sltu _ _ _ => "SLTU"
  | .dadd _ _ _ => "DADD"
  | .daddu _ _ _ => "DADDU"
  | .dsub _ _ _ => "DSUB"
  | .dsubu _ _ _ => "DSUBU"
  | .dsll _ _ _ => "DSLL"
  | .dsrl _ _ _ => "DSRL"
  | .dsra _ _ _ => "DSRA"
  | .dsll32 _ _ _ => "DSLL32"
  | .dsrl32 _ _ _ => "DSRL32"
  | .dsra32 _ _ _ => "DSRA32"
  | .bltz _ _ => "BLTZ"
  | .bgez _ _ => "BGEZ"
  | .bltzl _ _ => "BLTZL"
  | .bgezl _ _ => "BGEZL"
  | .bltzal _ _ => "BLTZAL"
  | .bgezal _ _ => "BGEZAL"
  | .bltzall _ _ => "BLTZALL"
  | .bgezall _ _ => "BGEZALL"
  | .j _ => "J"
  | .jal _ => "JAL"
  | .beq _ _ _ => "BEQ"
  | .bne _ _ _ => "BNE"
  | .blez _ _ => "BLEZ"
  | .bgtz _ _ => "BGTZ"
  | .addi _ _ _ => "ADDI"
  | .addiu _ _ _ => "ADDIU"
  | .slti _ _ _ => "SLTI"
  | .sltiu _ _ _ => "SLTIU"
  | .andi _ _ _ => "ANDI"
  | .ori _ _ _ => "ORI"
  | .xori _ _ _ => "XORI"
  | .lui _ _ => "LUI"
  | .mfc0 _ _ => "MFC0"
  | .dmfc0 _ _ => "DMFC0"
  | .mtc0 _ _ => "MTC0"
  | .dmtc0 _ _ => "DMTC0"
  | .tlbr => "TLBR"
  | .tlbwi => "TLBWI"
  | .tlbwr => "TLBWR"
  | .tlbp => "TLBP"
  | .eret => "ERET"
  | .cop1 _ => "COP1"
  | .beql _ _ _ => "BEQL"
  | .bnel _ _ _ => "BNEL"
  | .blezl _ _ => "BLEZL"
  | .bgtzl _ _ => "BGTZL"
  | .daddi _ _ _ => "DADDI"
  | .daddiu _ _ _ => "DADDIU"
  | .ldl _ _ _ => "LDL"
  | .ldr _ _ _ => "LDR"
  | .lb _ _ _ => "LB"
  | .lh _ _ _ => "LH"
  | .lwl _ _ _ => "LWL"
  | .lw _ _ _ => "LW"
  | .lbu _ _ _ => "LBU"
  | .lhu _ _ _ => "LHU"
  | .lwr _ _ _ => "LWR"
  | .lwu _ _ _ => "LWU"
  | .sb _ _ _ => "SB"
  | .sh _ _ _ => "SH"
  | .swl _ _ _ => "SWL"
  | .sw _ _ _ => "SW"
  | .sdl _ _ _ => "SDL"
  | .sdr _ _ _ => "SDR"
  | .swr _ _ _ => "SWR"
  | .cache _ _ _ => "CACHE"
  | .lwc1 _ _ _ => "LWC1"
  | .ldc1 _ _ _ => "LDC1"
  | .ld _ _ _ => "LD"
  | .swc1 _ _ _ => "SWC1"
  | .sdc1 _ _ _ => "SDC1"
  | .sd _ _ _ => "SD"

/-! ### The encoder (30_encoding.md R112) -/

/-- Format R. -/
def encodeR (opcode : BitVec 6) (rs rt rd sa : BitVec 5) (funct : BitVec 6) : Word := opcode ++ rs ++ rt ++ rd ++ sa ++ funct
/-- Format R with the 20-bit `code` in place of `rs`, `rt`, `rd` and `sa`. -/
def encodeCode (opcode : BitVec 6) (code : BitVec 20) (funct : BitVec 6) : Word := opcode ++ code ++ funct
/-- Format I. -/
def encodeI (opcode : BitVec 6) (rs rt : BitVec 5) (imm : BitVec 16) : Word := opcode ++ rs ++ rt ++ imm
/-- Format J. -/
def encodeJ (opcode : BitVec 6) (target : BitVec 26) : Word := opcode ++ target

/-- The word of an instruction. -/
def encode : Instr → Word
  | .nop => encodeR 0x00 0 0 0 0 0x00
  | .b offset => encodeI 0x04 0 0 offset
  | .bRegimm offset => encodeI 0x01 0 1 offset
  | .sll rd rt sa => encodeR 0x00 0 rt rd sa 0x00
  | .srl rd rt sa => encodeR 0x00 0 rt rd sa 0x02
  | .sra rd rt sa => encodeR 0x00 0 rt rd sa 0x03
  | .sllv rd rt rs => encodeR 0x00 rs rt rd 0 0x04
  | .srlv rd rt rs => encodeR 0x00 rs rt rd 0 0x06
  | .srav rd rt rs => encodeR 0x00 rs rt rd 0 0x07
  | .jr rs => encodeR 0x00 rs 0 0 0 0x08
  | .jalr rd rs => encodeR 0x00 rs 0 rd 0 0x09
  | .syscall code => encodeCode 0x00 code 0x0C
  | .breakI code => encodeCode 0x00 code 0x0D
  | .sync => encodeR 0x00 0 0 0 0 0x0F
  | .mfhi rd => encodeR 0x00 0 0 rd 0 0x10
  | .mthi rs => encodeR 0x00 rs 0 0 0 0x11
  | .mflo rd => encodeR 0x00 0 0 rd 0 0x12
  | .mtlo rs => encodeR 0x00 rs 0 0 0 0x13
  | .dsllv rd rt rs => encodeR 0x00 rs rt rd 0 0x14
  | .dsrlv rd rt rs => encodeR 0x00 rs rt rd 0 0x16
  | .dsrav rd rt rs => encodeR 0x00 rs rt rd 0 0x17
  | .mult rs rt => encodeR 0x00 rs rt 0 0 0x18
  | .multu rs rt => encodeR 0x00 rs rt 0 0 0x19
  | .div rs rt => encodeR 0x00 rs rt 0 0 0x1A
  | .divu rs rt => encodeR 0x00 rs rt 0 0 0x1B
  | .add rd rs rt => encodeR 0x00 rs rt rd 0 0x20
  | .addu rd rs rt => encodeR 0x00 rs rt rd 0 0x21
  | .sub rd rs rt => encodeR 0x00 rs rt rd 0 0x22
  | .subu rd rs rt => encodeR 0x00 rs rt rd 0 0x23
  | .and rd rs rt => encodeR 0x00 rs rt rd 0 0x24
  | .or rd rs rt => encodeR 0x00 rs rt rd 0 0x25
  | .xor rd rs rt => encodeR 0x00 rs rt rd 0 0x26
  | .nor rd rs rt => encodeR 0x00 rs rt rd 0 0x27
  | .slt rd rs rt => encodeR 0x00 rs rt rd 0 0x2A
  | .sltu rd rs rt => encodeR 0x00 rs rt rd 0 0x2B
  | .dadd rd rs rt => encodeR 0x00 rs rt rd 0 0x2C
  | .daddu rd rs rt => encodeR 0x00 rs rt rd 0 0x2D
  | .dsub rd rs rt => encodeR 0x00 rs rt rd 0 0x2E
  | .dsubu rd rs rt => encodeR 0x00 rs rt rd 0 0x2F
  | .dsll rd rt sa => encodeR 0x00 0 rt rd sa 0x38
  | .dsrl rd rt sa => encodeR 0x00 0 rt rd sa 0x3A
  | .dsra rd rt sa => encodeR 0x00 0 rt rd sa 0x3B
  | .dsll32 rd rt sa => encodeR 0x00 0 rt rd sa 0x3C
  | .dsrl32 rd rt sa => encodeR 0x00 0 rt rd sa 0x3E
  | .dsra32 rd rt sa => encodeR 0x00 0 rt rd sa 0x3F
  | .bltz rs offset => encodeI 0x01 rs 0 offset
  | .bgez rs offset => encodeI 0x01 rs 1 offset
  | .bltzl rs offset => encodeI 0x01 rs 2 offset
  | .bgezl rs offset => encodeI 0x01 rs 3 offset
  | .bltzal rs offset => encodeI 0x01 rs 16 offset
  | .bgezal rs offset => encodeI 0x01 rs 17 offset
  | .bltzall rs offset => encodeI 0x01 rs 18 offset
  | .bgezall rs offset => encodeI 0x01 rs 19 offset
  | .j target => encodeJ 0x02 target
  | .jal target => encodeJ 0x03 target
  | .beq rs rt offset => encodeI 0x04 rs rt offset
  | .bne rs rt offset => encodeI 0x05 rs rt offset
  | .blez rs offset => encodeI 0x06 rs 0 offset
  | .bgtz rs offset => encodeI 0x07 rs 0 offset
  | .addi rt rs imm => encodeI 0x08 rs rt imm
  | .addiu rt rs imm => encodeI 0x09 rs rt imm
  | .slti rt rs imm => encodeI 0x0A rs rt imm
  | .sltiu rt rs imm => encodeI 0x0B rs rt imm
  | .andi rt rs imm => encodeI 0x0C rs rt imm
  | .ori rt rs imm => encodeI 0x0D rs rt imm
  | .xori rt rs imm => encodeI 0x0E rs rt imm
  | .lui rt imm => encodeI 0x0F 0 rt imm
  | .mfc0 rt rd => encodeR 0x10 0 rt rd 0 0x00
  | .dmfc0 rt rd => encodeR 0x10 1 rt rd 0 0x00
  | .mtc0 rt rd => encodeR 0x10 4 rt rd 0 0x00
  | .dmtc0 rt rd => encodeR 0x10 5 rt rd 0 0x00
  | .tlbr => encodeR 0x10 16 0 0 0 0x01
  | .tlbwi => encodeR 0x10 16 0 0 0 0x02
  | .tlbwr => encodeR 0x10 16 0 0 0 0x06
  | .tlbp => encodeR 0x10 16 0 0 0 0x08
  | .eret => encodeR 0x10 16 0 0 0 0x18
  | .cop1 cofun => encodeJ 0x11 cofun
  | .beql rs rt offset => encodeI 0x14 rs rt offset
  | .bnel rs rt offset => encodeI 0x15 rs rt offset
  | .blezl rs offset => encodeI 0x16 rs 0 offset
  | .bgtzl rs offset => encodeI 0x17 rs 0 offset
  | .daddi rt rs imm => encodeI 0x18 rs rt imm
  | .daddiu rt rs imm => encodeI 0x19 rs rt imm
  | .ldl rt offset base => encodeI 0x1A base rt offset
  | .ldr rt offset base => encodeI 0x1B base rt offset
  | .lb rt offset base => encodeI 0x20 base rt offset
  | .lh rt offset base => encodeI 0x21 base rt offset
  | .lwl rt offset base => encodeI 0x22 base rt offset
  | .lw rt offset base => encodeI 0x23 base rt offset
  | .lbu rt offset base => encodeI 0x24 base rt offset
  | .lhu rt offset base => encodeI 0x25 base rt offset
  | .lwr rt offset base => encodeI 0x26 base rt offset
  | .lwu rt offset base => encodeI 0x27 base rt offset
  | .sb rt offset base => encodeI 0x28 base rt offset
  | .sh rt offset base => encodeI 0x29 base rt offset
  | .swl rt offset base => encodeI 0x2A base rt offset
  | .sw rt offset base => encodeI 0x2B base rt offset
  | .sdl rt offset base => encodeI 0x2C base rt offset
  | .sdr rt offset base => encodeI 0x2D base rt offset
  | .swr rt offset base => encodeI 0x2E base rt offset
  | .cache op offset base => encodeI 0x2F base op offset
  | .lwc1 ft offset base => encodeI 0x31 base ft offset
  | .ldc1 ft offset base => encodeI 0x35 base ft offset
  | .ld rt offset base => encodeI 0x37 base rt offset
  | .swc1 ft offset base => encodeI 0x39 base ft offset
  | .sdc1 ft offset base => encodeI 0x3D base ft offset
  | .sd rt offset base => encodeI 0x3F base rt offset

end Sys2Proof
end

