-- ==== Sys2Proof/Machine/Engine.lean ====
section
/-! DEFINITION. The stages of a step around the instruction's own meaning (40_step_engine.md R140 to R147). -/

namespace Sys2Proof.Machine

/-- Configurations no step is defined for: an ill-formed MAP (60_exceptions.md R388), a page mask the host must not write
(20_memory.md R73). -/
def configRefusal (s : State) : Option Refusal :=
  if !mapWf s.map then some .illFormedMap
  else if !s.tlb.toList.all (fun e => decide (e.mask ∈ Config.pageMasks)) then some .illegalPageMask
  else none

/-- Stage 1: the pending target is latched by the step and cleared here (R141). -/
def latchSlot (s : State) : State := { s with bd := none }

/-- `(Wired + entropy) & 0x3F` (10_state.md R38). -/
def randomValue (s : State) : Dword := (s.cop0 6#5 + BitVec.ofNat 64 (Config.entropy s.draws)) &&& 0x3F#64

/-- Count after stage 2: one more where CYCLES is odd (10_state.md R35). -/
def countValue (s : State) : Dword := if s.cycles.getLsbD 0 then s.cop0 9#5 + 1#64 else s.cop0 9#5

/-- Stage 2: Random is drawn, Count is incremented on odd cycles (R142). -/
def preExecute (s : State) : State :=
  let drawn : State := { s.setCop0 1#5 (randomValue s) with draws := s.draws + 1 }
  drawn.setCop0 9#5 (countValue s)

/-- Stages 1 and 2. -/
def beginStep (s : State) : State := preExecute (latchSlot s)

/-- Stage 3: the word at `pc`, and the state a device handler may have changed (R143). -/
def fetch (s : State) : Bus Word := andThen (memRead s s.pc 4 .fetch) fun r => .next (low32 r.1, r.2)

/-- Stages 3 and 4: the word, its instruction, and the state (R143, R144). DESIGN CHOICE: what a window's read handler
changed at the fetch stands when a later stage faults (log 16). -/
def fetchDecode (s : State) (slot : Option Dword) : Host.Outcome (Word × Instr × State) Fault Refusal :=
  match fetch s with
  | .fault f => .fault (f.inStep none slot)
  | .refused r => .refused r
  | .next (w, s') =>
    match decodeWord w with
    | some i => .next (w, i, s')
    | none => .fault ((Fault.decodeFault s'.context).inStep (some w) slot)

/-- End of stage 5 in a delay-slot cycle, `pc <- t` (R146), then stage 6, `CYCLES <- CYCLES + 1` (R147). -/
def finishStep (slot : Option Dword) (s : State) : State :=
  { s with pc := slot.getD s.pc, cycles := s.cycles + 1#64 }

/-- Stages 5 and 6: a control transfer in a delay-slot cycle is rejected before its handler runs (R145, R153); else the
handler's outcome `o` ends the step, a fault with the word and the latched target in its record (60_exceptions.md R381). -/
def completeStep (slot : Option Dword) (w : Word) (i : Instr) (s : State) (o : Outcome) : Outcome :=
  if slot.isSome && i.kind == .control then .fault ((Fault.branchInDelaySlot s.context).inStep (some w) slot)
  else match o with
    | .next t => .next (finishStep slot t)
    | .fault f => .fault (f.inStep (some w) slot)
    | .refused r => .refused r

/-- Store the bytes of a word in memory where a 4-byte fetch at `pc` reads them. -/
def placeWord (s : State) (w : Word) : State :=
  match translate s (low32 s.pc) with
  | some pa => { s with mem := Memory.writeBytes s.mem pa.toNat (bytesOfWord w) }
  | none => s

end Sys2Proof.Machine
end

