-- ==== Sys2Proof/Machine/Step.lean ====
section
/-! DEFINITION. The step (40_step_engine.md R151), and where its next instruction is placed. -/

namespace Sys2Proof.Machine

/-- One step: `Step(S, e)` of R151, the draw `e` taken from the model's counter (R154). -/
def step (s : State) : Host.Outcome State Fault Refusal :=
  match configRefusal s with
  | some r => .refused r
  | none =>
    match fetchDecode (beginStep s) s.bd with
    | .fault f => .fault f
    | .refused r => .refused r
    | .next (w, i, s') => completeStep s.bd w i s' (exec i s')

/-- The state with an instruction of the table stored where `step` fetches its next one (log 11). -/
def State.withFetchWord (s : State) (nbits w : Nat) : State := placeWord s (tableWord nbits w)

end Sys2Proof.Machine
end

