-- ==== Sys2Proof/Machine/Display.lean ====
section
/-! DEFINITION. Decode-and-format of one word for display (30_encoding.md R128, R130; 70_reset_and_hazards.md R412). It reads
no state. The exact text is not part of the hardware (R130). -/

namespace Sys2Proof.Machine

/-- `r0` to `r31`. -/
def regText (r : Reg) : String := "r" ++ toString r.toNat

/-- A signed decimal. -/
def signedText (v : BitVec 16) : String := toString v.toInt

/-- An unsigned decimal. -/
def unsignedText {w : Nat} (v : BitVec w) : String := toString v.toNat

/-- `offset(base)`. -/
def memText (offset : BitVec 16) (base : Reg) : String := signedText offset ++ "(" ++ regText base ++ ")"

/-- The operands of an instruction, in the order of the `Operands` column (30_encoding.md R118, R128). -/
def operandTexts : Instr → List String
  | .nop => []
  | .b offset => [signedText offset]
  | .bRegimm offset => [signedText offset]
  | .sll rd rt sa => [regText rd, regText rt, unsignedText sa]
  | .srl rd rt sa => [regText rd, regText rt, unsignedText sa]
  | .sra rd rt sa => [regText rd, regText rt, unsignedText sa]
  | .sllv rd rt rs => [regText rd, regText rt, regText rs]
  | .srlv rd rt rs => [regText rd, regText rt, regText rs]
  | .srav rd rt rs => [regText rd, regText rt, regText rs]
  | .jr rs => [regText rs]
  | .jalr rd rs => [regText rd, regText rs]
  | .syscall code => [unsignedText code]
  | .breakI code => [unsignedText code]
  | .sync => []
  | .mfhi rd => [regText rd]
  | .mthi rs => [regText rs]
  | .mflo rd => [regText rd]
  | .mtlo rs => [regText rs]
  | .dsllv rd rt rs => [regText rd, regText rt, regText rs]
  | .dsrlv rd rt rs => [regText rd, regText rt, regText rs]
  | .dsrav rd rt rs => [regText rd, regText rt, regText rs]
  | .mult rs rt => [regText rs, regText rt]
  | .multu rs rt => [regText rs, regText rt]
  | .div rs rt => [regText rs, regText rt]
  | .divu rs rt => [regText rs, regText rt]
  | .add rd rs rt => [regText rd, regText rs, regText rt]
  | .addu rd rs rt => [regText rd, regText rs, regText rt]
  | .sub rd rs rt => [regText rd, regText rs, regText rt]
  | .subu rd rs rt => [regText rd, regText rs, regText rt]
  | .and rd rs rt => [regText rd, regText rs, regText rt]
  | .or rd rs rt => [regText rd, regText rs, regText rt]
  | .xor rd rs rt => [regText rd, regText rs, regText rt]
  | .nor rd rs rt => [regText rd, regText rs, regText rt]
  | .slt rd rs rt => [regText rd, regText rs, regText rt]
  | .sltu rd rs rt => [regText rd, regText rs, regText rt]
  | .dadd rd rs rt => [regText rd, regText rs, regText rt]
  | .daddu rd rs rt => [regText rd, regText rs, regText rt]
  | .dsub rd rs rt => [regText rd, regText rs, regText rt]
  | .dsubu rd rs rt => [regText rd, regText rs, regText rt]
  | .dsll rd rt sa => [regText rd, regText rt, unsignedText sa]
  | .dsrl rd rt sa => [regText rd, regText rt, unsignedText sa]
  | .dsra rd rt sa => [regText rd, regText rt, unsignedText sa]
  | .dsll32 rd rt sa => [regText rd, regText rt, unsignedText sa]
  | .dsrl32 rd rt sa => [regText rd, regText rt, unsignedText sa]
  | .dsra32 rd rt sa => [regText rd, regText rt, unsignedText sa]
  | .bltz rs offset => [regText rs, signedText offset]
  | .bgez rs offset => [regText rs, signedText offset]
  | .bltzl rs offset => [regText rs, signedText offset]
  | .bgezl rs offset => [regText rs, signedText offset]
  | .bltzal rs offset => [regText rs, signedText offset]
  | .bgezal rs offset => [regText rs, signedText offset]
  | .bltzall rs offset => [regText rs, signedText offset]
  | .bgezall rs offset => [regText rs, signedText offset]
  | .j target => [unsignedText target]
  | .jal target => [unsignedText target]
  | .beq rs rt offset => [regText rs, regText rt, signedText offset]
  | .bne rs rt offset => [regText rs, regText rt, signedText offset]
  | .blez rs offset => [regText rs, signedText offset]
  | .bgtz rs offset => [regText rs, signedText offset]
  | .addi rt rs imm => [regText rt, regText rs, signedText imm]
  | .addiu rt rs imm => [regText rt, regText rs, signedText imm]
  | .slti rt rs imm => [regText rt, regText rs, signedText imm]
  | .sltiu rt rs imm => [regText rt, regText rs, signedText imm]
  | .andi rt rs imm => [regText rt, regText rs, unsignedText imm]
  | .ori rt rs imm => [regText rt, regText rs, unsignedText imm]
  | .xori rt rs imm => [regText rt, regText rs, unsignedText imm]
  | .lui rt imm => [regText rt, unsignedText imm]
  | .mfc0 rt rd => [regText rt, unsignedText rd]
  | .dmfc0 rt rd => [regText rt, unsignedText rd]
  | .mtc0 rt rd => [regText rt, unsignedText rd]
  | .dmtc0 rt rd => [regText rt, unsignedText rd]
  | .tlbr => []
  | .tlbwi => []
  | .tlbwr => []
  | .tlbp => []
  | .eret => []
  | .cop1 cofun => [unsignedText cofun]
  | .beql rs rt offset => [regText rs, regText rt, signedText offset]
  | .bnel rs rt offset => [regText rs, regText rt, signedText offset]
  | .blezl rs offset => [regText rs, signedText offset]
  | .bgtzl rs offset => [regText rs, signedText offset]
  | .daddi rt rs imm => [regText rt, regText rs, signedText imm]
  | .daddiu rt rs imm => [regText rt, regText rs, signedText imm]
  | .ldl rt offset base => [regText rt, memText offset base]
  | .ldr rt offset base => [regText rt, memText offset base]
  | .lb rt offset base => [regText rt, memText offset base]
  | .lh rt offset base => [regText rt, memText offset base]
  | .lwl rt offset base => [regText rt, memText offset base]
  | .lw rt offset base => [regText rt, memText offset base]
  | .lbu rt offset base => [regText rt, memText offset base]
  | .lhu rt offset base => [regText rt, memText offset base]
  | .lwr rt offset base => [regText rt, memText offset base]
  | .lwu rt offset base => [regText rt, memText offset base]
  | .sb rt offset base => [regText rt, memText offset base]
  | .sh rt offset base => [regText rt, memText offset base]
  | .swl rt offset base => [regText rt, memText offset base]
  | .sw rt offset base => [regText rt, memText offset base]
  | .sdl rt offset base => [regText rt, memText offset base]
  | .sdr rt offset base => [regText rt, memText offset base]
  | .swr rt offset base => [regText rt, memText offset base]
  | .cache op offset base => [unsignedText op, memText offset base]
  | .lwc1 ft offset base => ["f" ++ unsignedText ft, memText offset base]
  | .ldc1 ft offset base => ["f" ++ unsignedText ft, memText offset base]
  | .ld rt offset base => [regText rt, memText offset base]
  | .swc1 ft offset base => ["f" ++ unsignedText ft, memText offset base]
  | .sdc1 ft offset base => ["f" ++ unsignedText ft, memText offset base]
  | .sd rt offset base => [regText rt, memText offset base]

/-- The display of a word: mnemonic and operands, or a marker where no row matches (30_encoding.md R130). -/
def formatWord (w : Word) : String :=
  match decodeWord w with
  | some i =>
    match operandTexts i with
    | [] => i.mnemonic
    | ops => i.mnemonic ++ " " ++ String.intercalate ", " ops
  | none => "unknown"

end Sys2Proof.Machine
end

