-- ==== Sys2Proof/Machine/HostInterface.lean ====
section
/-! DEFINITION. What the host may do between steps (70_reset_and_hazards.md R400, R404, R406, R412). Steps themselves are
Machine/Step.lean, formatting is Machine/Display.lean, the pure read of storage is `State.peek`. -/

namespace Sys2Proof.Machine

/-- Why the machine refuses a host operation. -/
inductive HostError where
  /-- MAP is not well-formed (20_memory.md R84, 60_exceptions.md R388). -/
  | illFormedMap
  /-- A page mask outside the seven legal values (20_memory.md R73). -/
  | illegalPageMask
  /-- The address holds no RAM or boot RAM, or the mapping is no ROM. -/
  | noSuchStorage
deriving DecidableEq, Repr

/-- Create a session: the reset state, or a configuration error before the first step (R400, 60_exceptions.md R388). -/
def createSession (map : List Mapping) (entryPc : Dword) : Except HostError State :=
  if mapWf map then .ok (State.resetWith map entryPc) else .error .illFormedMap

/-- Write a translation-table entry (20_memory.md R76). -/
def writeTlbEntry (s : State) (i : Fin Config.tlbEntries) (e : TlbEntry) : Except HostError State :=
  if e.mask ∈ Config.pageMasks then .ok { s with tlb := s.tlb.set i.val e } else .error .illegalPageMask

/-- What the host may set between reset and the first step (R404). It cannot set `x[0]`, the instruction table, the ranges
of MAP, or a pending target. -/
inductive LaunchAction where
  | setReg (r : Reg) (v : Dword)
  | setPc (v : Dword)
  | setHi (v : Word)
  | setLo (v : Word)
  | setCop0 (i : Reg) (v : Dword)
  | setFcr0 (v : Word)
  | setFcr31 (v : Word)
  | setCycles (v : Dword)
  | setTlb (i : Fin Config.tlbEntries) (e : TlbEntry)
  /-- A byte of RAM or boot RAM, by physical address. -/
  | setByte (pa : Word) (b : Byte)
  /-- A byte of DEV, by physical address. -/
  | setLatch (pa : Word) (b : Byte)
  /-- The image of the ROM mapping at this place of MAP. -/
  | setRom (index : Nat) (image : List Byte)
deriving DecidableEq, Repr

/-- One launch action (R404). -/
def launchOne (s : State) : LaunchAction → Except HostError State
  | .setReg r v => .ok (s.setReg r v)
  | .setPc v => .ok { s with pc := v }
  | .setHi v => .ok { s with hi := v }
  | .setLo v => .ok { s with lo := v }
  | .setCop0 i v => .ok (s.setCop0 i v)
  | .setFcr0 v => .ok { s with fcr0 := v }
  | .setFcr31 v => .ok { s with fcr31 := v }
  | .setCycles v => .ok { s with cycles := v }
  | .setTlb i e => writeTlbEntry s i e
  | .setByte pa b =>
    match (lookup s.map pa).map Mapping.kind with
    | some .ram | some .bootRam => .ok { s with mem := Memory.write s.mem pa.toNat b }
    | some (.rom _) | some .openBus | some .faultTrap | some (.device _ _) | none => .error .noSuchStorage
  | .setLatch pa b => .ok { s with dev := Memory.write s.dev pa.toNat b }
  | .setRom index image =>
    match s.map[index]? with
    | some ⟨.rom _, tag, lo, hi⟩ => .ok { s with map := s.map.set index ⟨.rom image, tag, lo, hi⟩ }
    | some _ | none => .error .noSuchStorage

/-- `LAUNCH`: the host's changes to the reset state, in order (R404). -/
def launch (s : State) : List LaunchAction → Except HostError State
  | [] => .ok s
  | a :: as => match launchOne s a with
    | .ok s' => launch s' as
    | .error e => .error e

/-- The next instruction address of the inspection interface is `pc`; `State.bd` is reported beside it
(40_step_engine.md R156, R412). -/
def nextInstructionAddress (s : State) : Dword := s.pc

end Sys2Proof.Machine
end

