-- ==== Sys2Proof/Safety.lean ====
section
/-! DEFINITION. What a good state is: the invariants between steps (10_state.md R49) and the canonical form of the data, in
the terms claims use. -/

namespace Sys2Proof.Machine

/-- The state the model's data should have at every boundary between steps: byte storage and DEV in canonical form, the
stored cell of register 0 zero, MAP well-formed and the page masks legal. -/
structure State.Good (s : State) : Prop where
  memCanonical : Memory.wf s.mem = true
  devCanonical : Memory.wf s.dev = true
  zeroCell : s.gpr[0] = 0#64
  configured : configRefusal s = none

/-- What no step ever changes: MAP (and with it every ROM image), the translation table, the float cells
(10_state.md R39, R40, R43, R44), and every system-control register but Random, Wired, Count, Compare and Cause (R32). -/
structure SameConstants (s t : State) : Prop where
  map : t.map = s.map
  tlb : t.tlb = s.tlb
  fcr0 : t.fcr0 = s.fcr0
  fcr31 : t.fcr31 = s.fcr31
  inert : ∀ i : Reg, i ≠ 1#5 → i ∉ Config.cop0Writable → t.cop0 i = s.cop0 i

/-- A safe step: it completes. -/
def Completes (s : State) : Prop := ∃ t, step s = .next t

end Sys2Proof.Machine
end

