-- ==== Sys2Proof/Certificates/Slice0/Obligations.lean ====
section
/-! DEFINITION. The statements for the provers, each a proposition about the model; OBLIGATIONS.json says which rules of
spec/ each one formalises. First the words they share. -/

namespace Sys2Proof.Claims

open Sys2Proof.Machine

/-! ### Values as integers (00_scope.md R9 to R11) -/

/-- `signed_32(x[r][31:0])`. -/
def s32 (s : State) (r : Reg) : Int := ((s.reg r).setWidth 32).toInt
/-- `unsigned_32(x[r][31:0])`. -/
def u32 (s : State) (r : Reg) : Nat := (s.reg r).toNat % 2 ^ 32
/-- `signed_64(x[r])`. -/
def s64 (s : State) (r : Reg) : Int := (s.reg r).toInt
/-- `unsigned_64(x[r])`. -/
def u64 (s : State) (r : Reg) : Nat := (s.reg r).toNat
/-- `sext_64(trunc_32(x))` of an exact integer. -/
def sextWrap (x : Int) : Dword := BitVec.ofInt 64 (x.bmod (2 ^ 32))
/-- `trunc_64(x)` of an exact integer. -/
def wrap64 (x : Int) : Dword := BitVec.ofInt 64 x
/-- The exact result fits a signed 32-bit register. -/
def Fits32 (x : Int) : Prop := -(2 ^ 31) ≤ x ∧ x ≤ 2 ^ 31 - 1
/-- The exact result fits a signed 64-bit register. -/
def Fits64 (x : Int) : Prop := -(2 ^ 63) ≤ x ∧ x ≤ 2 ^ 63 - 1
/-- Byte `k` of an `n`-byte number, 0 the most significant (20_memory.md R62). -/
def byteOf (n v k : Nat) : Byte := BitVec.ofNat 8 (v / 256 ^ (n - 1 - k))
/-- The number that `n` bytes stand for, the first the most significant (20_memory.md R62). -/
def numberOf (byte : Nat → Byte) : Nat → Nat
  | 0 => 0
  | n + 1 => numberOf byte n * 256 + (byte n).toNat

/-! ### Encodings -/

/-- Every word with these bits decodes to the instruction of its fields. -/
def DecodesAs (mask expected : Word) (mk : Word → Instr) : Prop :=
  ∀ w : Word, w &&& mask = expected → decodeWord w = some (mk w)

/-! ### Frames -/

/-- The system-control registers, the float cells, the cycle counter, the translation table and MAP, as they were (and the
model's own draw counter). -/
structure SameSystem (s t : State) : Prop where
  cop0 : ∀ i : Reg, t.cop0 i = s.cop0 i
  fcr0 : t.fcr0 = s.fcr0
  fcr31 : t.fcr31 = s.fcr31
  cycles : t.cycles = s.cycles
  tlb : t.tlb = s.tlb
  map : t.map = s.map
  draws : t.draws = s.draws

/-- Every byte of memory and of the device latches, as it was. -/
def SameBytes (s t : State) : Prop :=
  (∀ a : Nat, Memory.read t.mem a = Memory.read s.mem a) ∧ (∀ a : Nat, Memory.read t.dev a = Memory.read s.dev a)

/-- The instruction completes: register `rd` holds `v` (register 0 stays zero), `pc` is 4 further, nothing else changed. -/
def WritesReg (s : State) (rd : Reg) (v : Dword) (o : Outcome) : Prop :=
  ∃ t, o = .next t ∧ t.reg rd = (if rd = 0#5 then 0#64 else v) ∧ (∀ q : Reg, q ≠ rd → t.reg q = s.reg q) ∧
    t.pc = s.pc + 4#64 ∧ t.hi = s.hi ∧ t.lo = s.lo ∧ t.bd = s.bd ∧ SameSystem s t ∧ SameBytes s t

/-- The instruction completes: HI and LO hold these values, `pc` is 4 further, nothing else changed. -/
def WritesHiLo (s : State) (hi lo : Word) (o : Outcome) : Prop :=
  ∃ t, o = .next t ∧ t.hi = hi ∧ t.lo = lo ∧ (∀ q : Reg, t.reg q = s.reg q) ∧ t.pc = s.pc + 4#64 ∧ t.bd = s.bd ∧
    SameSystem s t ∧ SameBytes s t

/-- The instruction completes and only `pc` changed, by 4. -/
def OnlyAdvances (s : State) (o : Outcome) : Prop :=
  ∃ t, o = .next t ∧ (∀ q : Reg, t.reg q = s.reg q) ∧ t.pc = s.pc + 4#64 ∧ t.hi = s.hi ∧ t.lo = s.lo ∧ t.bd = s.bd ∧
    SameSystem s t ∧ SameBytes s t

/-- The control transfer completes: taken, `bd` holds the target and `pc` is 4 further; not taken, `bd` is as it was and
`pc` is 8 further. A linking form writes `pc + 8` either way (register 0 stays zero). Nothing else changed. -/
def Transfers (s : State) (taken : Prop) (target : Dword) (link : Option Reg) (o : Outcome) : Prop :=
  ∃ t, o = .next t ∧ (taken → t.bd = some target ∧ t.pc = s.pc + 4#64) ∧
    (¬ taken → t.bd = s.bd ∧ t.pc = s.pc + 8#64) ∧
    (∀ q : Reg, t.reg q = if link = some q ∧ q ≠ 0#5 then s.pc + 8#64 else s.reg q) ∧
    t.hi = s.hi ∧ t.lo = s.lo ∧ SameSystem s t ∧ SameBytes s t

/-- The instruction is a jump, or a branch whose condition holds in `s` (45_branch_jump.md R254 to R274). -/
def Taken (s : State) : Instr → Prop
  | .j _ | .jal _ | .jr _ | .jalr _ _ | .b _ | .bRegimm _ => True
  | .beq rs rt _ | .beql rs rt _ => s.reg rs = s.reg rt
  | .bne rs rt _ | .bnel rs rt _ => s.reg rs ≠ s.reg rt
  | .blez rs _ | .blezl rs _ => s64 s rs ≤ 0
  | .bgtz rs _ | .bgtzl rs _ => 0 < s64 s rs
  | .bltz rs _ | .bltzl rs _ | .bltzal rs _ | .bltzall rs _ => s64 s rs < 0
  | .bgez rs _ | .bgezl rs _ | .bgezal rs _ | .bgezall rs _ => 0 ≤ s64 s rs
  | _ => False

/-! ### Accesses -/

/-- An aligned access of `n` bytes at effective address `ea` that lands at physical address `pa` in mapping `m`. -/
structure Lands (s : State) (ea : Dword) (n : Nat) (pa : Word) (m : Mapping) : Prop where
  aligned : ea.toNat % 2 ^ 32 % n = 0
  mapped : translate s (low32 ea) = some pa
  found : lookup s.map pa = some m

/-- A mapping of RAM or boot RAM. -/
def IsRam (m : Mapping) : Prop := m.kind = .ram ∨ m.kind = .bootRam

/-- A mapping whose reads have no side effect: RAM, boot RAM, ROM, open bus (20_memory.md R68). -/
def ReadsPlainly (m : Mapping) : Prop := IsRam m ∨ m.kind = .openBus ∨ ∃ image, m.kind = .rom image

/-- MAP holds no hardware-register window with a handler of its own. -/
def NoDevices (map : List Mapping) : Prop := ∀ m ∈ map, ∀ id regs, m.kind ≠ .device id regs

/-- The byte a read of a plain mapping gives at a physical address. -/
def plainByte (s : State) (m : Mapping) (a : Nat) : Byte :=
  match m.kind with
  | .ram | .bootRam => Memory.read s.mem a
  | .rom image => image.getD ((a - m.lo) % image.length) 0#8
  | .openBus | .faultTrap | .device _ _ => 0xFF#8

/-- The number `n` bytes of a plain mapping stand for. -/
def plainNumber (s : State) (m : Mapping) (pa : Word) (n : Nat) : Nat :=
  numberOf (fun k => plainByte s m (pa.toNat + k)) n

/-- The instruction completes having stored the low `n` bytes of `v` at physical address `pa`: those bytes, most significant
first, and no other byte; `pc` is 4 further, nothing else changed. -/
def Stores (s : State) (pa : Word) (n v : Nat) (o : Outcome) : Prop :=
  ∃ t, o = .next t ∧ (∀ k < n, Memory.read t.mem (pa.toNat + k) = byteOf n v k) ∧
    (∀ a : Nat, (a < pa.toNat ∨ pa.toNat + n ≤ a) → Memory.read t.mem a = Memory.read s.mem a) ∧
    (∀ a : Nat, Memory.read t.dev a = Memory.read s.dev a) ∧
    (∀ q : Reg, t.reg q = s.reg q) ∧ t.pc = s.pc + 4#64 ∧ t.hi = s.hi ∧ t.lo = s.lo ∧ t.bd = s.bd ∧ SameSystem s t

/-- After a data access that left state `s'`, the instruction completes: register `rt` holds `v`, `pc` is 4 further, memory
and latches are as the access left them, nothing else changed since `s`. -/
def CompletesAfter (s s' : State) (rt : Reg) (v : Dword) (o : Outcome) : Prop :=
  ∃ t, o = .next t ∧ t.reg rt = (if rt = 0#5 then 0#64 else v) ∧ (∀ q : Reg, q ≠ rt → t.reg q = s.reg q) ∧
    t.pc = s.pc + 4#64 ∧ t.hi = s.hi ∧ t.lo = s.lo ∧ t.bd = s.bd ∧ SameSystem s t ∧ SameBytes s' t

/-! ### The bytes of a partial-word access (47_unaligned_load_store.md R320) -/

/-- The addresses a "left" instruction covers: `va` to the end of its aligned block of `n` bytes. -/
def leftOf (n : Nat) (va : Word) : List Word :=
  (List.range (n - va.toNat % n)).map fun k => va + BitVec.ofNat 32 k
/-- The addresses a "right" instruction covers: the start of the block to `va`. -/
def rightOf (n : Nat) (va : Word) : List Word :=
  (List.range (va.toNat % n + 1)).map fun k => va - BitVec.ofNat 32 (va.toNat % n) + BitVec.ofNat 32 k
/-- The old value with its most significant bytes replaced by those read. -/
def mergeLeft (n : Nat) (va : Word) (bytes : List Byte) (old : Nat) : Nat :=
  numberOf (fun k => if k < n - va.toNat % n then bytes.getD k 0#8 else byteOf n old k) n
/-- The old value with its least significant bytes replaced by those read. -/
def mergeRight (n : Nat) (va : Word) (bytes : List Byte) (old : Nat) : Nat :=
  numberOf (fun k => if n - 1 - va.toNat % n ≤ k then bytes.getD (k - (n - 1 - va.toNat % n)) 0#8 else byteOf n old k) n
/-- What a "left" store writes: address and byte. -/
def leftCells (n : Nat) (va : Word) (v : Nat) : List (Word × Byte) :=
  (List.range (n - va.toNat % n)).map fun k => (va + BitVec.ofNat 32 k, byteOf n v k)
/-- What a "right" store writes: address and byte. -/
def rightCells (n : Nat) (va : Word) (v : Nat) : List (Word × Byte) :=
  (List.range (va.toNat % n + 1)).map fun k =>
    (va - BitVec.ofNat 32 (va.toNat % n) + BitVec.ofNat 32 k, byteOf n v (n - 1 - va.toNat % n + k))

/-! ### Random and Count in a step (10_state.md R35, R38) -/

/-- What stage 2 puts into Random: the draw is the model's free value (log 1). -/
def drawnRandom (s : State) : Dword := (s.cop0 6#5 + BitVec.ofNat 64 (Config.entropy s.draws)) &&& 0x3F#64
/-- What stage 2 leaves in Count. -/
def steppedCount (s : State) : Dword := if s.cycles.toNat % 2 = 1 then s.cop0 9#5 + 1#64 else s.cop0 9#5

/-! ### Table entries in arithmetic (20_memory.md R73, R74) -/

/-- The page size of an entry in bytes. -/
def pageSize (e : TlbEntry) : Nat := (e.mask.toNat + 1) * 4096

/-- Entry `e` translates `va` to `pa`: `va` lies in its pair of pages, and the half it lies in is valid. -/
def EntryMaps (e : TlbEntry) (va pa : Nat) : Prop :=
  va / (2 * pageSize e) = e.vpn2.toNat * 8192 / (2 * pageSize e) ∧
    if va / pageSize e % 2 = 1
    then e.v1 = true ∧ pa = e.pfn1.toNat * 4096 / pageSize e * pageSize e + va % pageSize e
    else e.v0 = true ∧ pa = e.pfn0.toNat * 4096 / pageSize e * pageSize e + va % pageSize e

/-- A virtual address of a translated segment (20_memory.md R70). -/
def Translated (va : Word) : Prop := va.toNat < 0x80000000 ∨ 0xC0000000 ≤ va.toNat

end Sys2Proof.Claims

open Sys2Proof Sys2Proof.Machine Sys2Proof.Claims

/-! ### Encoding (30_encoding.md) -/

/-- One word of each family, written out bit by bit from the spec's examples, decodes to the instruction it stands for. -/
def Obligations.SpecWordsDecode : Prop :=
  decodeWord 0b00100000001000011111111111110110#32 = some (.addi 1#5 1#5 (-10#16)) ∧
  decodeWord 0b00111100000000100001001000110100#32 = some (.lui 2#5 0x1234#16) ∧
  decodeWord 0b00000000001000010000100000100000#32 = some (.add 1#5 1#5 1#5) ∧
  decodeWord 0b00000000000000010001000100000011#32 = some (.sra 2#5 1#5 4#5) ∧
  decodeWord 0b00000000010000010001100000010100#32 = some (.dsllv 3#5 1#5 2#5) ∧
  decodeWord 0b00000000001000100000000000011010#32 = some (.div 1#5 2#5) ∧
  decodeWord 0b00001100000000000000010000000100#32 = some (.jal 0x404#26) ∧
  decodeWord 0b00000000001000001111100000001001#32 = some (.jalr 31#5 1#5) ∧
  decodeWord 0b00000100001100010000000000000011#32 = some (.bgezal 1#5 3#16) ∧
  decodeWord 0b00010000000000000000000000000011#32 = some (.b 3#16) ∧
  decodeWord 0b10000000001000101111111111111111#32 = some (.lb 2#5 (-1#16) 1#5) ∧
  decodeWord 0b10110100001000100000000000000010#32 = some (.sdr 2#5 2#16 1#5) ∧
  decodeWord 0b01000000100000100011000000000000#32 = some (.mtc0 2#5 6#5) ∧
  decodeWord 0b00000000010010001101000101001100#32 = some (.syscall 0x12345#20)

/-- R116: the decoder answers the first row of the table, in order, whose masked bits are the expected ones; `none` where
no row matches. -/
def Obligations.DecodeIsFirstMatchingRow : Prop :=
  table.length = 107 ∧ ∀ w : Word,
    (∀ i : Instr, decodeWord w = some i ↔
      ∃ (k : Nat) (d : Descriptor), table[k]? = some d ∧ w &&& d.mask = d.expected ∧ i = d.build w ∧
        ∀ j < k, ∀ e : Descriptor, table[j]? = some e → w &&& e.mask ≠ e.expected) ∧
    (decodeWord w = none ↔ ∀ d ∈ table, w &&& d.mask ≠ d.expected)

/-- R117: exactly three pairs of rows share a word (rows counted from 0 here), and in each the earlier row's mask is a strict
superset of the later row's. -/
def Obligations.OnlyThreeRowPairsOverlap : Prop :=
  ∀ (j k : Nat) (d e : Descriptor), j < k → table[j]? = some d → table[k]? = some e →
    ((∃ w : Word, w &&& d.mask = d.expected ∧ w &&& e.mask = e.expected) ↔
      (j = 0 ∧ k = 3) ∨ (j = 1 ∧ k = 55) ∨ (j = 2 ∧ k = 46)) ∧
    ((∃ w : Word, w &&& d.mask = d.expected ∧ w &&& e.mask = e.expected) → d.mask &&& e.mask = e.mask ∧ d.mask ≠ e.mask)

/-- R131: decoding an encoded well-formed instruction gives it back, with every operand at every value its field admits; the
three ill-formed families decode to the more specific row, whose handler has the same effect. -/
def Obligations.DecodeAfterEncode : Prop :=
  (∀ i : Instr, i.wf = true → decodeWord (encode i) = some i) ∧
  (∀ i : Instr, i.wf = true → ∀ rest : List Byte, decodeBytes (bytesOfWord (encode i) ++ rest) = .ok (i, rest)) ∧
  (decodeWord (encode (.sll 0#5 0#5 0#5)) = some .nop ∧
    ∀ s : State, exec (.sll 0#5 0#5 0#5) s = exec .nop s) ∧
  (∀ offset : BitVec 16, decodeWord (encode (.beq 0#5 0#5 offset)) = some (.b offset) ∧
    ∀ s : State, exec (.beq 0#5 0#5 offset) s = exec (.b offset) s) ∧
  (∀ offset : BitVec 16, decodeWord (encode (.bgez 0#5 offset)) = some (.bRegimm offset) ∧
    ∀ s : State, exec (.bgez 0#5 offset) s = exec (.bRegimm offset) s)

/-- R123: a word that decodes is exactly the encoding of a well-formed instruction, so every bit of it was an operand bit or
the bit the row fixes: no word with an unused field set decodes. -/
def Obligations.EncodeAfterDecode : Prop :=
  ∀ (w : Word) (i : Instr), decodeWord w = some i → encode i = w ∧ i.wf = true

/-- R111, R112: the three layouts. A word is built from field values by the shifts of R112, each field is read back, and
every word is built from its own fields. -/
def Obligations.FormatsBuildWordsFromFields : Prop :=
  (∀ (op : BitVec 6) (rs rt rd sa : BitVec 5) (fn : BitVec 6), encodeR op rs rt rd sa fn =
      op.setWidth 32 <<< 26 ||| rs.setWidth 32 <<< 21 ||| rt.setWidth 32 <<< 16 ||| rd.setWidth 32 <<< 11 |||
        sa.setWidth 32 <<< 6 ||| fn.setWidth 32) ∧
  (∀ (op : BitVec 6) (rs rt : BitVec 5) (imm : BitVec 16), encodeI op rs rt imm =
      op.setWidth 32 <<< 26 ||| rs.setWidth 32 <<< 21 ||| rt.setWidth 32 <<< 16 ||| imm.setWidth 32) ∧
  (∀ (op : BitVec 6) (target : BitVec 26), encodeJ op target = op.setWidth 32 <<< 26 ||| target.setWidth 32) ∧
  (∀ w : Word,
    encodeR (fieldOpcode w) (fieldRs w) (fieldRt w) (fieldRd w) (fieldSa w) (fieldFunct w) = w ∧
    encodeI (fieldOpcode w) (fieldRs w) (fieldRt w) (fieldImm w) = w ∧
    encodeJ (fieldOpcode w) (fieldTarget w) = w) ∧
  (∀ w : Word, (fieldOpcode w).toNat = w.toNat / 2 ^ 26 ∧ (fieldRs w).toNat = w.toNat / 2 ^ 21 % 32 ∧
    (fieldRt w).toNat = w.toNat / 2 ^ 16 % 32 ∧ (fieldRd w).toNat = w.toNat / 2 ^ 11 % 32 ∧
    (fieldSa w).toNat = w.toNat / 2 ^ 6 % 32 ∧ (fieldFunct w).toNat = w.toNat % 64 ∧
    (fieldImm w).toNat = w.toNat % 2 ^ 16 ∧ (fieldTarget w).toNat = w.toNat % 2 ^ 26)

/-- R119 to R122, R361: the words no row claims, by opcode, function and sub-opcode, decode to nothing. -/
def Obligations.UnassignedWordsDoNotDecode : Prop :=
  (∀ w : Word, (fieldOpcode w).toNat ∈ [0x12, 0x13, 0x1C, 0x1D, 0x1E, 0x1F, 0x30, 0x32, 0x33, 0x34, 0x36, 0x38, 0x3A, 0x3B,
      0x3C, 0x3E] → decodeWord w = none) ∧
  (∀ w : Word, (fieldOpcode w).toNat = 0 → (fieldFunct w).toNat ∈ [0x01, 0x05, 0x0A, 0x0B, 0x0E, 0x15, 0x1C, 0x1D, 0x1E,
      0x1F, 0x28, 0x29, 0x30, 0x31, 0x32, 0x33, 0x34, 0x35, 0x36, 0x37, 0x39, 0x3D] → decodeWord w = none) ∧
  (∀ w : Word, (fieldOpcode w).toNat = 1 → (fieldRt w).toNat ∉ [0x00, 0x01, 0x02, 0x03, 0x10, 0x11, 0x12, 0x13] →
    decodeWord w = none) ∧
  (∀ w : Word, (fieldOpcode w).toNat = 0x10 → (fieldRs w).toNat ∉ [0x00, 0x01, 0x04, 0x05] →
    w ∉ [0x42000001#32, 0x42000002#32, 0x42000006#32, 0x42000008#32, 0x42000018#32] → decodeWord w = none) ∧
  (∀ w : Word, (fieldOpcode w).toNat = 0x10 → (fieldRs w).toNat ∈ [0x00, 0x01, 0x04, 0x05] → w.toNat % 2 ^ 11 ≠ 0 →
    decodeWord w = none)

/-! ### The step (40_step_engine.md, 60_exceptions.md) -/

/-- R151: a step whose fetched word decodes to `i`, and which is no control transfer in a delay-slot cycle, is `exec i` on
the fetched state, then `pc` to the latched target (if one was latched) and one more in `CYCLES`; a fault gets the word and
the latched target into its record. The second part says it of bytes stored at the program counter. (That a fault after the
fetch keeps what a window's handler changed at the fetch is the model's choice, log 16.) -/
def Obligations.StepRunsDecodedInstruction : Prop :=
  (∀ (s s' : State) (v : Dword) (i : Instr), configRefusal s = none →
    memRead (beginStep s) s.pc 4 .fetch = .next (v, s') → decodeWord (low32 v) = some i →
    (s.bd = none ∨ i.kind ≠ .control) →
    step s = match exec i s' with
      | .next t => .next { t with pc := s.bd.getD t.pc, cycles := t.cycles + 1#64 }
      | .fault f => .fault (f.inStep (some (low32 v)) s.bd)
      | .refused r => .refused r) ∧
  (∀ (s : State) (pa : Word) (b0 b1 b2 b3 : Byte) (i : Instr), configRefusal s = none →
    s.pc.toNat % 4 = 0 → translate s (low32 s.pc) = some pa →
    s.peek pa = some b0 → s.peek (pa + 1#32) = some b1 → s.peek (pa + 2#32) = some b2 → s.peek (pa + 3#32) = some b3 →
    decodeBytes [b0, b1, b2, b3] = .ok (i, []) → (s.bd = none ∨ i.kind ≠ .control) →
    step s = match exec i (beginStep s) with
      | .next t => .next { t with pc := s.bd.getD t.pc, cycles := t.cycles + 1#64 }
      | .fault f => .fault (f.inStep (some (wordOfBytes b0 b1 b2 b3)) s.bd)
      | .refused r => .refused r)

/-- R38: after every step, completed or faulted, Random is `(Wired + draw) & 0x3F` with this step's draw, below 64, and the
next step takes a fresh draw. The draw is the model's free value (log 1): nothing is said of it. -/
def Obligations.RandomAfterEveryStep : Prop :=
  ∀ s : State,
    (∀ t, step s = .next t → t.cop0 1#5 = drawnRandom s ∧ (t.cop0 1#5).toNat < 64 ∧ t.draws = s.draws + 1) ∧
    (∀ f, step s = .fault f → f.context.after.cop0 1#5 = drawnRandom s ∧ (f.context.after.cop0 1#5).toNat < 64 ∧
      f.context.after.draws = s.draws + 1)

/-- R35: Count is one more after every step that began with an odd `CYCLES`, completed or faulted, and unchanged after the
others, unless the step's instruction is a move to Count; the handler sees the new value. -/
def Obligations.CountStepsOnOddCycles : Prop :=
  (∀ (s s' : State) (w : Word) (i : Instr), fetchDecode (beginStep s) s.bd = .next (w, i, s') →
    s'.cop0 9#5 = steppedCount s ∧
    ∀ t, step s = .next t →
      ((∀ rt : Reg, i ≠ .mtc0 rt 9#5 ∧ i ≠ .dmtc0 rt 9#5) → t.cop0 9#5 = steppedCount s) ∧
      (∀ rt : Reg, i = .mtc0 rt 9#5 → t.cop0 9#5 = sextWrap (s32 s rt)) ∧
      (∀ rt : Reg, i = .dmtc0 rt 9#5 → t.cop0 9#5 = s.reg rt)) ∧
  (∀ (s : State) (f : Fault), step s = .fault f → f.context.after.cop0 9#5 = steppedCount s) ∧
  (∀ (map : List Mapping) (entryPc : Dword), steppedCount (State.resetWith map entryPc) = 0#64)

/-- R147: a completed step adds one to `CYCLES`, modulo `2^64`; a faulted one leaves it. -/
def Obligations.CyclesCountCompletedSteps : Prop :=
  ∀ s : State, (∀ t, step s = .next t → t.cycles = s.cycles + 1#64) ∧
    (∀ f, step s = .fault f → f.context.after.cycles = s.cycles)

/-- R146: a delay-slot cycle that completes leaves `pc` at the latched target and nothing pending; one that faults leaves
`pc` at the slot and reports the target. -/
def Obligations.DelaySlotCycleEndsAtTarget : Prop :=
  ∀ (s : State) (target : Dword), s.bd = some target →
    (∀ t, step s = .next t → t.pc = target ∧ t.bd = none) ∧
    (∀ f, step s = .fault f → f.context.slot = some target ∧ f.context.after.pc = s.pc ∧ f.context.after.bd = none)

/-- R153: in a delay-slot cycle an instruction of kind `control` faults before its handler runs, and the control
instructions are those of 45_branch_jump.md. (That the state left is the fetched one, where a window's handler changed it at
the fetch, is the model's choice, log 16.) -/
def Obligations.ControlInDelaySlotFaults : Prop :=
  (∀ (s s' : State) (target : Dword) (w : Word) (i : Instr), configRefusal s = none → s.bd = some target →
    fetchDecode (beginStep s) s.bd = .next (w, i, s') → i.kind = .control →
    step s = .fault (.branchInDelaySlot { pc := s.pc, word := some w, slot := some target, after := s' })) ∧
  (∀ i : Instr, i.kind = .control ↔ i.mnemonic ∈ ["J", "JAL", "JR", "JALR", "BEQ", "BNE", "BLEZ", "BGTZ", "BLTZ", "BGEZ",
    "BLTZAL", "BGEZAL", "BEQL", "BNEL", "BLEZL", "BGTZL", "BLTZL", "BGEZL", "BLTZALL", "BGEZALL", "B"])

/-- R41: between steps a target is pending exactly when the instruction just executed was a taken branch or a jump
(`Taken`). A control transfer that completes was in no delay-slot cycle, and ends at `pc + 4` taken, at `pc + 8` not taken. -/
def Obligations.PendingTargetIsOfTakenTransfer : Prop :=
  ∀ (s s' t : State) (w : Word) (i : Instr), fetchDecode (beginStep s) s.bd = .next (w, i, s') → step s = .next t →
    ((∃ target, t.bd = some target) ↔ Taken s i) ∧
    (i.kind = .control → s.bd = none ∧ (Taken s i → t.pc = s.pc + 4#64) ∧ (¬ Taken s i → t.pc = s.pc + 8#64))

/-- R148: how an instruction of each kind ends: `normal` at `pc + 4`, `control` as R250, R251 say, `unsupported` never. -/
def Obligations.KindDecidesAdvance : Prop :=
  ∀ (i : Instr) (s : State),
    (i.kind = .normal → ∀ t, exec i s = .next t → t.pc = s.pc + 4#64 ∧ t.bd = s.bd) ∧
    (i.kind = .control → ∃ t, exec i s = .next t ∧
      ((t.pc = s.pc + 4#64 ∧ ∃ target, t.bd = some target) ∨ (t.pc = s.pc + 8#64 ∧ t.bd = s.bd))) ∧
    (i.kind = .unsupported → exec i s = .fault (.unsupportedInstruction i.mnemonic s.context))

/-- R384: what a faulted step leaves: nothing pending, Random and Count as stage 2 made them, and nothing else changed, `pc`
and `CYCLES` included. Bytes can have changed only where MAP has device windows. -/
def Obligations.FaultLeavesState : Prop :=
  ∀ (s : State) (f : Fault), step s = .fault f →
    f.context.after.bd = none ∧ f.context.after.cop0 1#5 = drawnRandom s ∧
    f.context.after.cop0 9#5 = steppedCount s ∧
    f.context.after.pc = s.pc ∧ (∀ r : Reg, f.context.after.reg r = s.reg r) ∧
    f.context.after.hi = s.hi ∧ f.context.after.lo = s.lo ∧
    (∀ i : Reg, i ≠ 1#5 → i ≠ 9#5 → f.context.after.cop0 i = s.cop0 i) ∧
    f.context.after.fcr0 = s.fcr0 ∧ f.context.after.fcr31 = s.fcr31 ∧ f.context.after.cycles = s.cycles ∧
    f.context.after.tlb = s.tlb ∧ f.context.after.map = s.map ∧
    (NoDevices s.map → SameBytes s f.context.after)

/-- R381: the record of every fault names the faulting instruction's address, its word (none for a fetch fault) and the
target latched in stage 1. -/
def Obligations.FaultRecordNamesInstruction : Prop :=
  ∀ (s : State) (f : Fault), step s = .fault f →
    f.context.pc = s.pc ∧ f.context.slot = s.bd ∧
    (∀ w s', fetch (beginStep s) = .next (w, s') → f.context.word = some w) ∧
    (∀ e, fetch (beginStep s) = .fault e → f.context.word = none)

/-- R144: a fetched word that no row matches ends the step with `DecodeFault`. (That the state left is the fetched one, where a
window's handler changed it at the fetch, is the model's choice, log 16.) -/
def Obligations.UndecodableWordFaults : Prop :=
  ∀ (s s' : State) (w : Word), configRefusal s = none → fetch (beginStep s) = .next (w, s') →
    (∀ d ∈ table, w &&& d.mask ≠ d.expected) →
    step s = .fault (.decodeFault { pc := s.pc, word := some w, slot := s.bd, after := s' })

/-- R65: a `pc` that is not a multiple of 4 faults at the fetch; and only `JR` and `JALR` stage targets that are not, while
`pc` itself stays a multiple of 4 in every ordinary cycle. -/
def Obligations.MisalignedFetchFaults : Prop :=
  (∀ s : State, configRefusal s = none → s.pc.toNat % 4 ≠ 0 →
    step s = .fault (.misaligned (low32 s.pc) 4 .fetch { pc := s.pc, word := none, slot := s.bd, after := beginStep s })) ∧
  (∀ (s s' t : State) (w : Word) (i : Instr), s.pc.toNat % 4 = 0 →
    fetchDecode (beginStep s) s.bd = .next (w, i, s') → step s = .next t →
    (s.bd = none → t.pc.toNat % 4 = 0) ∧
    (∀ target, t.bd = some target → target.toNat % 4 = 0 ∨ (∃ rs, i = .jr rs) ∨ ∃ rd rs, i = .jalr rd rs))

/-- R100, R101: the faults of one access in their order: misalignment, translation, mapping, the handler's own. A byte
access is never misaligned. -/
def Obligations.AccessFaultsInOrder : Prop :=
  ∀ (s : State) (a v : Dword) (n : Nat) (k : AccessKind), n ∈ [1, 2, 4, 8] →
    (a.toNat % 2 ^ 32 % n ≠ 0 →
      memRead s a n k = .fault (.misaligned (low32 a) n k s.context) ∧
      memWrite s a n v = .fault (.misaligned (low32 a) n .write s.context)) ∧
    (a.toNat % 2 ^ 32 % n = 0 → translate s (low32 a) = none →
      memRead s a n k = .fault (.tlbMiss (low32 a) n k s.context) ∧
      memWrite s a n v = .fault (.tlbMiss (low32 a) n .write s.context)) ∧
    (∀ pa, a.toNat % 2 ^ 32 % n = 0 → translate s (low32 a) = some pa →
      (∀ m ∈ s.map, ¬ (m.lo ≤ pa.toNat ∧ pa.toNat < m.hi)) →
      memRead s a n k = .fault (.unmapped (low32 a) pa n k s.context) ∧
      memWrite s a n v = .fault (.unmapped (low32 a) pa n .write s.context)) ∧
    (∀ pa m image, Lands s a n pa m → m.kind = .rom image →
      memWrite s a n v = .fault (.readOnlyWrite (low32 a) pa n s.context)) ∧
    (∀ pa m, Lands s a n pa m → m.kind = .faultTrap →
      memRead s a n k = .fault (.deviceFault (low32 a) pa n k s.context) ∧
      memWrite s a n v = .fault (.deviceFault (low32 a) pa n .write s.context))

/-- R84, R388, R152: a session with an ill-formed MAP is refused, and every step of any other configuration, through device
windows as well, completes or faults: there is no third outcome. -/
def Obligations.OnlyBadConfigurationsRefused : Prop :=
  (∀ map : List Mapping, mapWf map = true ↔
    ∀ m ∈ map, m.lo < m.hi ∧ m.hi ≤ 2 ^ 32 ∧ m.lo % 8 = 0 ∧ m.hi % 8 = 0) ∧
  (∀ (map : List Mapping) (entryPc : Dword), mapWf map = false → createSession map entryPc = .error .illFormedMap) ∧
  (∀ s : State, mapWf s.map = false → step s = .refused .illFormedMap) ∧
  (∀ s : State, mapWf s.map = true → (∃ i : Fin 32, s.tlb[i].mask ∉ Config.pageMasks) →
    step s = .refused .illegalPageMask) ∧
  (∀ s : State, mapWf s.map = true → (∀ i : Fin 32, s.tlb[i].mask ∈ Config.pageMasks) →
    (∃ t, step s = .next t) ∨ ∃ f, step s = .fault f)

/-! ### State and reset (10_state.md) -/

/-- R22: register 0 discards writes. Every instruction that writes a register acts as `NOP` where that register is 0, but
for the effects its own rule keeps: the overflow check of the six trapping forms (R160, R180), the access of a load (R302,
R320), the jump of `JALR`, which is then a plain `JR` (R257). And no instruction writes the cell of register 0. -/
def Obligations.RegisterZeroDiscardsWrites : Prop :=
  (∀ (s : State) (rs rt : Reg) (imm : BitVec 16) (sa : BitVec 5) (i : Instr),
    i ∈ [Instr.addiu 0#5 rs imm, .slti 0#5 rs imm, .sltiu 0#5 rs imm, .andi 0#5 rs imm, .ori 0#5 rs imm,
      .xori 0#5 rs imm, .lui 0#5 imm, .daddiu 0#5 rs imm, .addu 0#5 rs rt, .subu 0#5 rs rt, .and 0#5 rs rt,
      .or 0#5 rs rt, .xor 0#5 rs rt, .nor 0#5 rs rt, .slt 0#5 rs rt, .sltu 0#5 rs rt, .daddu 0#5 rs rt,
      .dsubu 0#5 rs rt, .sll 0#5 rt sa, .srl 0#5 rt sa, .sra 0#5 rt sa, .sllv 0#5 rt rs, .srlv 0#5 rt rs,
      .srav 0#5 rt rs, .dsll 0#5 rt sa, .dsrl 0#5 rt sa, .dsra 0#5 rt sa, .dsll32 0#5 rt sa, .dsrl32 0#5 rt sa,
      .dsra32 0#5 rt sa, .dsllv 0#5 rt rs, .dsrlv 0#5 rt rs, .dsrav 0#5 rt rs, .mfhi 0#5, .mflo 0#5, .mfc0 0#5 rs,
      .dmfc0 0#5 rs] → exec i s = exec .nop s) ∧
  (∀ (s : State) (rs rt : Reg) (imm : BitVec 16) (i : Instr) (fits : Prop),
    (i, fits) ∈ [(Instr.addi 0#5 rs imm, Fits32 (s32 s rs + imm.toInt)), (.daddi 0#5 rs imm, Fits64 (s64 s rs + imm.toInt)),
      (.add 0#5 rs rt, Fits32 (s32 s rs + s32 s rt)), (.sub 0#5 rs rt, Fits32 (s32 s rs - s32 s rt)),
      (.dadd 0#5 rs rt, Fits64 (s64 s rs + s64 s rt)), (.dsub 0#5 rs rt, Fits64 (s64 s rs - s64 s rt))] →
    (fits → exec i s = exec .nop s) ∧ (¬ fits → exec i s = .fault (.integerOverflow s.context))) ∧
  (∀ (s : State) (base : Reg) (offset : BitVec 16) (n : Nat) (i : Instr),
    (n, i) ∈ [(1, Instr.lb 0#5 offset base), (1, .lbu 0#5 offset base), (2, .lh 0#5 offset base), (2, .lhu 0#5 offset base),
      (4, .lw 0#5 offset base), (4, .lwu 0#5 offset base), (8, .ld 0#5 offset base)] →
    (∀ v s', memRead s (effAddr s base offset) n .read = .next (v, s') → exec i s = exec .nop s') ∧
    (∀ f, memRead s (effAddr s base offset) n .read = .fault f → exec i s = .fault f)) ∧
  (∀ (s : State) (base : Reg) (offset : BitVec 16) (covered : List Word) (i : Instr),
    (covered, i) ∈ [(leftOf 4 (low32 (effAddr s base offset)), Instr.lwl 0#5 offset base),
      (rightOf 4 (low32 (effAddr s base offset)), .lwr 0#5 offset base),
      (leftOf 8 (low32 (effAddr s base offset)), .ldl 0#5 offset base),
      (rightOf 8 (low32 (effAddr s base offset)), .ldr 0#5 offset base)] →
    (∀ bytes s', readEach s covered = .next (bytes, s') → exec i s = exec .nop s') ∧
    (∀ f, readEach s covered = .fault f → exec i s = .fault f)) ∧
  (∀ (s : State) (rs : Reg), exec (.jalr 0#5 rs) s = exec (.jr rs) s) ∧
  (∀ (i : Instr) (s t : State), s.gpr[0] = 0#64 → exec i s = .next t → t.gpr[0] = 0#64)

/-- R48: the state after reset, for every MAP and entry address: all registers zero, nothing pending, no translation-table
entry valid, `pc` at the entry, RAM zero, ROM its image. (DEV is the model's choice, log 8, and is not stated.) -/
def Obligations.ResetLeavesZeros : Prop :=
  ∀ (map : List Mapping) (entryPc : Dword),
    (∀ r : Reg, (State.resetWith map entryPc).reg r = 0#64) ∧ (State.resetWith map entryPc).pc = entryPc ∧
    (State.resetWith map entryPc).hi = 0#32 ∧ (State.resetWith map entryPc).lo = 0#32 ∧
    (∀ i : Reg, (State.resetWith map entryPc).cop0 i = 0#64) ∧
    (State.resetWith map entryPc).fcr0 = 0#32 ∧ (State.resetWith map entryPc).fcr31 = 0#32 ∧
    (State.resetWith map entryPc).bd = none ∧ (State.resetWith map entryPc).cycles = 0#64 ∧
    (∀ i : Fin 32, (State.resetWith map entryPc).tlb[i] = ⟨0#19, 0#12, 0#20, false, 0#20, false⟩) ∧
    (∀ (pa : Word) (m : Mapping), lookup map pa = some m →
      (IsRam m → (State.resetWith map entryPc).peek pa = some 0#8) ∧
      (∀ image, m.kind = .rom image →
        (State.resetWith map entryPc).peek pa = some (image.getD ((pa.toNat - m.lo) % image.length) 0#8)))

/-- The reset state is a good state (`State.Good`), whatever well-formed MAP and entry address the session has. -/
def Obligations.ResetIsGood : Prop :=
  State.reset.Good ∧ ∀ (map : List Mapping) (entryPc : Dword), mapWf map = true → (State.resetWith map entryPc).Good

/-- R49, R22: every step from a good state leaves a good state: canonical storage and latches, register 0 zero, MAP
well-formed, page masks legal. The same of the state a faulted step leaves. -/
def Obligations.StepKeepsGoodStates : Prop :=
  ∀ s : State, s.Good → (∀ t, step s = .next t → t.Good) ∧ (∀ f, step s = .fault f → f.context.after.Good)

/-- R49, R39, R40, R76, R92: no step, completed or faulted, changes MAP (with it every ROM image), the translation table, the
float cells, or a system-control register other than Random, Wired, Count, Compare, Cause; so no ROM byte changes. -/
def Obligations.StepKeepsConstants : Prop :=
  ∀ s : State,
    (∀ t, step s = .next t → SameConstants s t ∧
      ∀ (pa : Word) (m : Mapping) (image : List Byte), lookup s.map pa = some m → m.kind = .rom image →
        t.peek pa = s.peek pa) ∧
    (∀ f, step s = .fault f → SameConstants s f.context.after)

/-! ### The bus (20_memory.md) -/

/-- R71: the two direct-mapped segments subtract their base, land below 512 MiB, and are two views of the same bytes. -/
def Obligations.DirectSegmentsSubtractBase : Prop :=
  ∀ s : State,
    (∀ va : Word, 0x80000000 ≤ va.toNat → va.toNat < 0xA0000000 →
      ∃ pa, translate s va = some pa ∧ pa.toNat = va.toNat - 0x80000000 ∧ pa.toNat ≤ 0x1FFFFFFF) ∧
    (∀ va : Word, 0xA0000000 ≤ va.toNat → va.toNat < 0xC0000000 →
      ∃ pa, translate s va = some pa ∧ pa.toNat = va.toNat - 0xA0000000 ∧ pa.toNat ≤ 0x1FFFFFFF) ∧
    (∀ x : Word, x.toNat < 2 ^ 29 → translate s (0x80000000#32 + x) = some x ∧ translate s (0xA0000000#32 + x) = some x)

/-- R72, R74: with legal page masks, an address of a translated segment has a physical address exactly where some entry maps
it and no earlier entry does; it has none where no entry maps it. With no valid entry, as after reset, every aligned access to
a translated segment is a `TlbMiss` with its address, width and kind. -/
def Obligations.TableLookupTakesFirstHit : Prop :=
  (∀ (s : State) (va : Word), (∀ i : Fin 32, s.tlb[i].mask ∈ Config.pageMasks) → Translated va →
    (∀ pa : Word, translate s va = some pa ↔
      ∃ i : Fin 32, EntryMaps s.tlb[i] va.toNat pa.toNat ∧ ∀ j : Fin 32, j < i → ∀ p : Nat, ¬ EntryMaps s.tlb[j] va.toNat p) ∧
    (translate s va = none ↔ ∀ (i : Fin 32) (p : Nat), ¬ EntryMaps s.tlb[i] va.toNat p)) ∧
  (∀ (map : List Mapping) (entryPc : Dword) (i : Fin 32),
    (State.resetWith map entryPc).tlb[i].v0 = false ∧ (State.resetWith map entryPc).tlb[i].v1 = false) ∧
  (∀ (s : State) (a v : Dword) (n : Nat) (k : AccessKind), (∀ i : Fin 32, s.tlb[i].v0 = false ∧ s.tlb[i].v1 = false) →
    Translated (low32 a) → n ∈ [1, 2, 4, 8] → a.toNat % 2 ^ 32 % n = 0 →
    memRead s a n k = .fault (.tlbMiss (low32 a) n k s.context) ∧
    memWrite s a n v = .fault (.tlbMiss (low32 a) n .write s.context))

/-- R62, R63, R86, R88: an access to RAM or boot RAM is big-endian bytes: a read gives the number its bytes stand for and
changes nothing; a write sets its bytes, most significant first, and no other; so accesses of different widths to the same
bytes agree. -/
def Obligations.RamAccessIsBigEndianBytes : Prop :=
  ∀ (s : State) (a v : Dword) (n : Nat) (k : AccessKind) (pa : Word) (m : Mapping), n ∈ [1, 2, 4, 8] →
    Lands s a n pa m → IsRam m →
    (∃ r, memRead s a n k = .next (r, s) ∧ r.toNat = numberOf (fun j => Memory.read s.mem (pa.toNat + j)) n) ∧
    (∃ t, memWrite s a n v = .next t ∧
      (∀ j < n, Memory.read t.mem (pa.toNat + j) = byteOf n v.toNat j) ∧
      (∀ x : Nat, (x < pa.toNat ∨ pa.toNat + n ≤ x) → Memory.read t.mem x = Memory.read s.mem x) ∧
      (∀ x : Nat, Memory.read t.dev x = Memory.read s.dev x) ∧
      (∀ r : Reg, t.reg r = s.reg r) ∧ t.pc = s.pc ∧ t.hi = s.hi ∧ t.lo = s.lo ∧ t.bd = s.bd ∧ SameSystem s t)

/-- R103, R300, R302: a word stored to RAM is what the next fetch of the same physical address reads, through whatever virtual address,
with nothing in between. -/
def Obligations.NextFetchSeesStore : Prop :=
  ∀ (s t : State) (rt base : Reg) (offset : BitVec 16) (a : Dword) (pa : Word) (m : Mapping),
    Lands s (effAddr s base offset) 4 pa m → IsRam m → Lands s a 4 pa m →
    exec (.sw rt offset base) s = .next t →
    memRead t a 4 .fetch = .next ((low32 (s.reg rt)).setWidth 64, t)

/-- R87: a ROM read gives the number its image bytes stand for and changes nothing; a ROM write, a store's or a DMA byte's,
faults and changes nothing. (That a short image repeats is the model's, log 6.) -/
def Obligations.RomReadsAndRefusesWrites : Prop :=
  ∀ (s : State) (a v : Dword) (n : Nat) (k : AccessKind) (pa : Word) (m : Mapping) (image : List Byte),
    n ∈ [1, 2, 4, 8] → Lands s a n pa m → m.kind = .rom image →
    (∃ r, memRead s a n k = .next (r, s) ∧
      r.toNat = numberOf (fun j => image.getD ((pa.toNat - m.lo + j) % image.length) 0#8) n) ∧
    memWrite s a n v = .fault (.readOnlyWrite (low32 a) pa n s.context)

/-- R89, R90: open bus reads as all ones and discards writes; the reference configuration has none. A fault-trap window
refuses reads and writes and changes nothing. -/
def Obligations.OpenBusAndFaultTrap : Prop :=
  (∀ (s : State) (a v : Dword) (n : Nat) (k : AccessKind) (pa : Word) (m : Mapping), n ∈ [1, 2, 4, 8] →
    Lands s a n pa m →
    (m.kind = .openBus →
      (∃ r, memRead s a n k = .next (r, s) ∧ r.toNat = 2 ^ (8 * n) - 1) ∧ memWrite s a n v = .next s) ∧
    (m.kind = .faultTrap →
      memRead s a n k = .fault (.deviceFault (low32 a) pa n k s.context) ∧
      memWrite s a n v = .fault (.deviceFault (low32 a) pa n .write s.context))) ∧
  (∀ m ∈ Config.refMap, m.kind ≠ .openBus)

/-- R61, R290: an effective address is base plus sign-extended displacement modulo `2^64`, and bits 63 to 32 of it are
ignored by every access, fetches included. -/
def Obligations.UpperAddressBitsIgnored : Prop :=
  (∀ (s : State) (base : Reg) (offset : BitVec 16),
    effAddr s base offset = wrap64 (s64 s base + offset.toInt)) ∧
  (∀ (s : State) (a a' v : Dword) (n : Nat) (k : AccessKind), a.toNat % 2 ^ 32 = a'.toNat % 2 ^ 32 →
    memRead s a n k = memRead s a' n k ∧ memWrite s a n v = memWrite s a' n v)

/-- R96: a DMA copy reads and then writes byte `i` before byte `i + 1`, each as any access of one byte, device windows
included, addresses wrapping at `2^32`; within RAM, through
kseg0, the whole of it completes, and an overlapping copy upwards repeats its first bytes. -/
def Obligations.DmaCopiesByteByByte : Prop :=
  (∀ (s : State) (src dst : Word) (len : Nat),
    dma s src dst 0 = .next s ∧
    dma s src dst (len + 1) =
      andThen (memRead s (src.setWidth 64) 1 .read) fun r =>
        andThen (memWrite r.2 (dst.setWidth 64) 1 r.1) fun s' => dma s' (src + 1#32) (dst + 1#32) len) ∧
  (∀ (s : State) (p q len : Nat), p + len ≤ 2 ^ 29 → q + len ≤ 2 ^ 29 →
    (∀ i < len, ∃ m, lookup s.map (BitVec.ofNat 32 (p + i)) = some m ∧ IsRam m) →
    (∀ i < len, ∃ m, lookup s.map (BitVec.ofNat 32 (q + i)) = some m ∧ IsRam m) →
    ∃ t, dma s (BitVec.ofNat 32 (0x80000000 + p)) (BitVec.ofNat 32 (0x80000000 + q)) len = .next t ∧
      (∀ x : Nat, Memory.read t.mem x =
        if q ≤ x ∧ x < q + len
        then Memory.read s.mem (if p < q then p + (x - q) % (q - p) else p + (x - q))
        else Memory.read s.mem x) ∧
      (∀ x : Nat, Memory.read t.dev x = Memory.read s.dev x) ∧
      (∀ r : Reg, t.reg r = s.reg r) ∧ t.pc = s.pc ∧ t.hi = s.hi ∧ t.lo = s.lo ∧ t.bd = s.bd ∧ SameSystem s t)

/-- R94, R96: a word stored to a DMA length register of a window copies that many bytes, from the address in its source
latch to the address in its destination latch, before the store completes. (Where the window has these registers is MAP's,
log 8.) -/
def Obligations.LengthWriteCopies : Prop :=
  ∀ (s : State) (rt base : Reg) (offset : BitVec 16) (pa : Word) (m : Mapping) (id srcOff dstOff : Nat)
    (regs : List DeviceReg), Lands s (effAddr s base offset) 4 pa m → m.kind = .device id regs →
    regAt regs (pa.toNat - m.lo) 4 = some (.dmaLength srcOff dstOff) →
    ∃ latched : State, (∀ k < 4, Memory.read latched.dev (pa.toNat + k) = byteOf 4 (u32 s rt) k) ∧
      (∀ x : Nat, (x < pa.toNat ∨ pa.toNat + 4 ≤ x) → Memory.read latched.dev x = Memory.read s.dev x) ∧
      latched = { s with dev := latched.dev } ∧
      ∃ src dst : Word, src.toNat = numberOf (fun k => Memory.read latched.dev (m.lo + srcOff + k)) 4 ∧
        dst.toNat = numberOf (fun k => Memory.read latched.dev (m.lo + dstOff + k)) 4 ∧
        (∀ t, dma latched src dst (u32 s rt) = .next t → exec (.sw rt offset base) s = .next { t with pc := t.pc + 4#64 }) ∧
        (∀ f, dma latched src dst (u32 s rt) = .fault f → exec (.sw rt offset base) s = .fault f)

/-- R93, R94, R95: a plain latch or an address latch of a window stores the word written and does nothing else; a plain latch
reads back its last value; a status register reads 0 and ignores writes. (Where the registers are is MAP's, log 8.) -/
def Obligations.WindowRegistersLatchAndSynthesize : Prop :=
  ∀ (s : State) (rt base : Reg) (offset : BitVec 16) (pa : Word) (m : Mapping) (id : Nat) (regs : List DeviceReg),
    Lands s (effAddr s base offset) 4 pa m → m.kind = .device id regs →
    (regAt regs (pa.toNat - m.lo) 4 = some .latch ∨ regAt regs (pa.toNat - m.lo) 4 = some .addressLatch →
      ∃ t, exec (.sw rt offset base) s = .next t ∧
        (∀ k < 4, Memory.read t.dev (pa.toNat + k) = byteOf 4 (u32 s rt) k) ∧
        (∀ x : Nat, (x < pa.toNat ∨ pa.toNat + 4 ≤ x) → Memory.read t.dev x = Memory.read s.dev x) ∧
        (∀ x : Nat, Memory.read t.mem x = Memory.read s.mem x) ∧
        (∀ r : Reg, t.reg r = s.reg r) ∧ t.pc = s.pc + 4#64 ∧ t.hi = s.hi ∧ t.lo = s.lo ∧ t.bd = s.bd ∧ SameSystem s t) ∧
    (regAt regs (pa.toNat - m.lo) 4 = some .latch →
      WritesReg s rt (sextWrap (numberOf (fun k => Memory.read s.dev (pa.toNat + k)) 4)) (exec (.lw rt offset base) s)) ∧
    (regAt regs (pa.toNat - m.lo) 4 = some .status →
      WritesReg s rt 0#64 (exec (.lw rt offset base) s) ∧ OnlyAdvances s (exec (.sw rt offset base) s))

/-! ### Arithmetic and logic with an immediate (41_alu_immediate.md) and between registers (42_alu_register.md) -/

/-- R161, R169: the trapping additions of an immediate: the exact sum if it fits, else `IntegerOverflow` with the state as it
was; also where the destination is register 0. -/
def Obligations.TrappingImmediateAdds : Prop :=
  DecodesAs 0xFC000000 0x20000000 (fun w => .addi (fieldRt w) (fieldRs w) (fieldImm w)) ∧
  DecodesAs 0xFC000000 0x60000000 (fun w => .daddi (fieldRt w) (fieldRs w) (fieldImm w)) ∧
  ∀ (rt rs : Reg) (imm : BitVec 16) (s : State),
    (Fits32 (s32 s rs + imm.toInt) → WritesReg s rt (wrap64 (s32 s rs + imm.toInt)) (exec (.addi rt rs imm) s)) ∧
    (¬ Fits32 (s32 s rs + imm.toInt) → exec (.addi rt rs imm) s = .fault (.integerOverflow s.context)) ∧
    (Fits64 (s64 s rs + imm.toInt) → WritesReg s rt (wrap64 (s64 s rs + imm.toInt)) (exec (.daddi rt rs imm) s)) ∧
    (¬ Fits64 (s64 s rs + imm.toInt) → exec (.daddi rt rs imm) s = .fault (.integerOverflow s.context))

/-- R162, R168, R170: the wrapping additions of a sign-extended immediate, and the upper immediate. -/
def Obligations.WrappingImmediateAdds : Prop :=
  DecodesAs 0xFC000000 0x24000000 (fun w => .addiu (fieldRt w) (fieldRs w) (fieldImm w)) ∧
  DecodesAs 0xFFE00000 0x3C000000 (fun w => .lui (fieldRt w) (fieldImm w)) ∧
  (∀ w : Word, (fieldOpcode w).toNat = 0x0F → fieldRs w ≠ 0#5 → decodeWord w = none) ∧
  DecodesAs 0xFC000000 0x64000000 (fun w => .daddiu (fieldRt w) (fieldRs w) (fieldImm w)) ∧
  ∀ (rt rs : Reg) (imm : BitVec 16) (s : State),
    WritesReg s rt (sextWrap (s32 s rs + imm.toInt)) (exec (.addiu rt rs imm) s) ∧
    WritesReg s rt (wrap64 (s64 s rs + imm.toInt)) (exec (.daddiu rt rs imm) s) ∧
    WritesReg s rt (sextWrap (imm.toInt * 2 ^ 16)) (exec (.lui rt imm) s)

/-- R163, R164, R189, R190: the comparisons write 1 or 0, signed or unsigned on all 64 bits; an immediate is sign-extended
first, also for the unsigned form. -/
def Obligations.ComparisonsWriteOneOrZero : Prop :=
  DecodesAs 0xFC000000 0x28000000 (fun w => .slti (fieldRt w) (fieldRs w) (fieldImm w)) ∧
  DecodesAs 0xFC000000 0x2C000000 (fun w => .sltiu (fieldRt w) (fieldRs w) (fieldImm w)) ∧
  DecodesAs 0xFC0007FF 0x0000002A (fun w => .slt (fieldRd w) (fieldRs w) (fieldRt w)) ∧
  DecodesAs 0xFC0007FF 0x0000002B (fun w => .sltu (fieldRd w) (fieldRs w) (fieldRt w)) ∧
  (∀ (rt rs : Reg) (imm : BitVec 16) (s : State),
    WritesReg s rt (if s64 s rs < imm.toInt then 1#64 else 0#64) (exec (.slti rt rs imm) s) ∧
    WritesReg s rt (if (u64 s rs : Int) < imm.toInt % 2 ^ 64 then 1#64 else 0#64) (exec (.sltiu rt rs imm) s)) ∧
  (∀ (rd rs rt : Reg) (s : State),
    WritesReg s rd (if s64 s rs < s64 s rt then 1#64 else 0#64) (exec (.slt rd rs rt) s) ∧
    WritesReg s rd (if u64 s rs < u64 s rt then 1#64 else 0#64) (exec (.sltu rd rs rt) s))

/-- R165 to R167, R185 to R188: the bitwise operations, bit by bit on all 64 bits; an immediate is zero above bit 15. -/
def Obligations.BitwiseOperations : Prop :=
  DecodesAs 0xFC000000 0x30000000 (fun w => .andi (fieldRt w) (fieldRs w) (fieldImm w)) ∧
  DecodesAs 0xFC000000 0x34000000 (fun w => .ori (fieldRt w) (fieldRs w) (fieldImm w)) ∧
  DecodesAs 0xFC000000 0x38000000 (fun w => .xori (fieldRt w) (fieldRs w) (fieldImm w)) ∧
  DecodesAs 0xFC0007FF 0x00000024 (fun w => .and (fieldRd w) (fieldRs w) (fieldRt w)) ∧
  DecodesAs 0xFC0007FF 0x00000025 (fun w => .or (fieldRd w) (fieldRs w) (fieldRt w)) ∧
  DecodesAs 0xFC0007FF 0x00000026 (fun w => .xor (fieldRd w) (fieldRs w) (fieldRt w)) ∧
  DecodesAs 0xFC0007FF 0x00000027 (fun w => .nor (fieldRd w) (fieldRs w) (fieldRt w)) ∧
  (∀ (rt rs : Reg) (imm : BitVec 16) (s : State),
    (∃ v : Dword, WritesReg s rt v (exec (.andi rt rs imm) s) ∧
      ∀ i < 64, v.getLsbD i = ((s.reg rs).getLsbD i && (decide (i < 16) && imm.getLsbD i))) ∧
    (∃ v : Dword, WritesReg s rt v (exec (.ori rt rs imm) s) ∧
      ∀ i < 64, v.getLsbD i = ((s.reg rs).getLsbD i || (decide (i < 16) && imm.getLsbD i))) ∧
    (∃ v : Dword, WritesReg s rt v (exec (.xori rt rs imm) s) ∧
      ∀ i < 64, v.getLsbD i = ((s.reg rs).getLsbD i ^^ (decide (i < 16) && imm.getLsbD i)))) ∧
  (∀ (rd rs rt : Reg) (s : State),
    (∃ v : Dword, WritesReg s rd v (exec (.and rd rs rt) s) ∧
      ∀ i < 64, v.getLsbD i = ((s.reg rs).getLsbD i && (s.reg rt).getLsbD i)) ∧
    (∃ v : Dword, WritesReg s rd v (exec (.or rd rs rt) s) ∧
      ∀ i < 64, v.getLsbD i = ((s.reg rs).getLsbD i || (s.reg rt).getLsbD i)) ∧
    (∃ v : Dword, WritesReg s rd v (exec (.xor rd rs rt) s) ∧
      ∀ i < 64, v.getLsbD i = ((s.reg rs).getLsbD i ^^ (s.reg rt).getLsbD i)) ∧
    (∃ v : Dword, WritesReg s rd v (exec (.nor rd rs rt) s) ∧
      ∀ i < 64, v.getLsbD i = !((s.reg rs).getLsbD i || (s.reg rt).getLsbD i)))

/-- R181, R183, R191, R193: the trapping additions and subtractions of registers: the exact result if it fits, else
`IntegerOverflow` with the state as it was; also where the destination is register 0. -/
def Obligations.TrappingRegisterArithmetic : Prop :=
  DecodesAs 0xFC0007FF 0x00000020 (fun w => .add (fieldRd w) (fieldRs w) (fieldRt w)) ∧
  DecodesAs 0xFC0007FF 0x00000022 (fun w => .sub (fieldRd w) (fieldRs w) (fieldRt w)) ∧
  DecodesAs 0xFC0007FF 0x0000002C (fun w => .dadd (fieldRd w) (fieldRs w) (fieldRt w)) ∧
  DecodesAs 0xFC0007FF 0x0000002E (fun w => .dsub (fieldRd w) (fieldRs w) (fieldRt w)) ∧
  ∀ (rd rs rt : Reg) (s : State),
    (Fits32 (s32 s rs + s32 s rt) → WritesReg s rd (wrap64 (s32 s rs + s32 s rt)) (exec (.add rd rs rt) s)) ∧
    (¬ Fits32 (s32 s rs + s32 s rt) → exec (.add rd rs rt) s = .fault (.integerOverflow s.context)) ∧
    (Fits32 (s32 s rs - s32 s rt) → WritesReg s rd (wrap64 (s32 s rs - s32 s rt)) (exec (.sub rd rs rt) s)) ∧
    (¬ Fits32 (s32 s rs - s32 s rt) → exec (.sub rd rs rt) s = .fault (.integerOverflow s.context)) ∧
    (Fits64 (s64 s rs + s64 s rt) → WritesReg s rd (wrap64 (s64 s rs + s64 s rt)) (exec (.dadd rd rs rt) s)) ∧
    (¬ Fits64 (s64 s rs + s64 s rt) → exec (.dadd rd rs rt) s = .fault (.integerOverflow s.context)) ∧
    (Fits64 (s64 s rs - s64 s rt) → WritesReg s rd (wrap64 (s64 s rs - s64 s rt)) (exec (.dsub rd rs rt) s)) ∧
    (¬ Fits64 (s64 s rs - s64 s rt) → exec (.dsub rd rs rt) s = .fault (.integerOverflow s.context))

/-- R182, R184, R192, R194: the wrapping additions and subtractions of registers. -/
def Obligations.WrappingRegisterArithmetic : Prop :=
  DecodesAs 0xFC0007FF 0x00000021 (fun w => .addu (fieldRd w) (fieldRs w) (fieldRt w)) ∧
  DecodesAs 0xFC0007FF 0x00000023 (fun w => .subu (fieldRd w) (fieldRs w) (fieldRt w)) ∧
  DecodesAs 0xFC0007FF 0x0000002D (fun w => .daddu (fieldRd w) (fieldRs w) (fieldRt w)) ∧
  DecodesAs 0xFC0007FF 0x0000002F (fun w => .dsubu (fieldRd w) (fieldRs w) (fieldRt w)) ∧
  ∀ (rd rs rt : Reg) (s : State),
    WritesReg s rd (sextWrap (u32 s rs + u32 s rt)) (exec (.addu rd rs rt) s) ∧
    WritesReg s rd (sextWrap ((u32 s rs : Int) - u32 s rt)) (exec (.subu rd rs rt) s) ∧
    WritesReg s rd (wrap64 (u64 s rs + u64 s rt)) (exec (.daddu rd rs rt) s) ∧
    WritesReg s rd (wrap64 ((u64 s rs : Int) - u64 s rt)) (exec (.dsubu rd rs rt) s)

/-! ### Shifts (43_shifts.md) -/

/-- R211 to R216: the 32-bit shifts, by `sa` or by the low 5 bits of a register, of the low word, with the result
sign-extended. -/
def Obligations.WordShifts : Prop :=
  (∀ w : Word, w &&& 0xFFE0003F = 0x00000000 → w ≠ 0 →
    decodeWord w = some (.sll (fieldRd w) (fieldRt w) (fieldSa w))) ∧
  DecodesAs 0xFFE0003F 0x00000002 (fun w => .srl (fieldRd w) (fieldRt w) (fieldSa w)) ∧
  DecodesAs 0xFFE0003F 0x00000003 (fun w => .sra (fieldRd w) (fieldRt w) (fieldSa w)) ∧
  DecodesAs 0xFC0007FF 0x00000004 (fun w => .sllv (fieldRd w) (fieldRt w) (fieldRs w)) ∧
  DecodesAs 0xFC0007FF 0x00000006 (fun w => .srlv (fieldRd w) (fieldRt w) (fieldRs w)) ∧
  DecodesAs 0xFC0007FF 0x00000007 (fun w => .srav (fieldRd w) (fieldRt w) (fieldRs w)) ∧
  (∀ (rd rt : Reg) (sa : BitVec 5) (s : State),
    WritesReg s rd (sextWrap (u32 s rt * 2 ^ sa.toNat : Nat)) (exec (.sll rd rt sa) s) ∧
    WritesReg s rd (sextWrap (u32 s rt / 2 ^ sa.toNat : Nat)) (exec (.srl rd rt sa) s) ∧
    WritesReg s rd (wrap64 ((s32 s rt).fdiv (2 ^ sa.toNat))) (exec (.sra rd rt sa) s)) ∧
  (∀ (rd rt rs : Reg) (s : State),
    WritesReg s rd (sextWrap (u32 s rt * 2 ^ (u64 s rs % 32) : Nat)) (exec (.sllv rd rt rs) s) ∧
    WritesReg s rd (sextWrap (u32 s rt / 2 ^ (u64 s rs % 32) : Nat)) (exec (.srlv rd rt rs) s) ∧
    WritesReg s rd (wrap64 ((s32 s rt).fdiv (2 ^ (u64 s rs % 32)))) (exec (.srav rd rt rs) s))

/-- R217 to R225: the 64-bit shifts, by `sa`, by `sa + 32`, or by the low 6 bits of a register. -/
def Obligations.DoublewordShifts : Prop :=
  DecodesAs 0xFFE0003F 0x00000038 (fun w => .dsll (fieldRd w) (fieldRt w) (fieldSa w)) ∧
  DecodesAs 0xFFE0003F 0x0000003A (fun w => .dsrl (fieldRd w) (fieldRt w) (fieldSa w)) ∧
  DecodesAs 0xFFE0003F 0x0000003B (fun w => .dsra (fieldRd w) (fieldRt w) (fieldSa w)) ∧
  DecodesAs 0xFFE0003F 0x0000003C (fun w => .dsll32 (fieldRd w) (fieldRt w) (fieldSa w)) ∧
  DecodesAs 0xFFE0003F 0x0000003E (fun w => .dsrl32 (fieldRd w) (fieldRt w) (fieldSa w)) ∧
  DecodesAs 0xFFE0003F 0x0000003F (fun w => .dsra32 (fieldRd w) (fieldRt w) (fieldSa w)) ∧
  DecodesAs 0xFC0007FF 0x00000014 (fun w => .dsllv (fieldRd w) (fieldRt w) (fieldRs w)) ∧
  DecodesAs 0xFC0007FF 0x00000016 (fun w => .dsrlv (fieldRd w) (fieldRt w) (fieldRs w)) ∧
  DecodesAs 0xFC0007FF 0x00000017 (fun w => .dsrav (fieldRd w) (fieldRt w) (fieldRs w)) ∧
  (∀ (rd rt : Reg) (sa : BitVec 5) (s : State),
    WritesReg s rd (wrap64 (u64 s rt * 2 ^ sa.toNat : Nat)) (exec (.dsll rd rt sa) s) ∧
    WritesReg s rd (wrap64 (u64 s rt / 2 ^ sa.toNat : Nat)) (exec (.dsrl rd rt sa) s) ∧
    WritesReg s rd (wrap64 ((s64 s rt).fdiv (2 ^ sa.toNat))) (exec (.dsra rd rt sa) s) ∧
    WritesReg s rd (wrap64 (u64 s rt * 2 ^ (sa.toNat + 32) : Nat)) (exec (.dsll32 rd rt sa) s) ∧
    WritesReg s rd (wrap64 (u64 s rt / 2 ^ (sa.toNat + 32) : Nat)) (exec (.dsrl32 rd rt sa) s) ∧
    WritesReg s rd (wrap64 ((s64 s rt).fdiv (2 ^ (sa.toNat + 32)))) (exec (.dsra32 rd rt sa) s)) ∧
  (∀ (rd rt rs : Reg) (s : State),
    WritesReg s rd (wrap64 (u64 s rt * 2 ^ (u64 s rs % 64) : Nat)) (exec (.dsllv rd rt rs) s) ∧
    WritesReg s rd (wrap64 (u64 s rt / 2 ^ (u64 s rs % 64) : Nat)) (exec (.dsrlv rd rt rs) s) ∧
    WritesReg s rd (wrap64 ((s64 s rt).fdiv (2 ^ (u64 s rs % 64)))) (exec (.dsrav rd rt rs) s))

/-! ### Multiply, divide, HI and LO (44_muldiv_hilo.md) -/

/-- R230, R231: the products are exact: HILO, with HI the upper half, is the 64-bit product. -/
def Obligations.MultiplyLeavesExactProduct : Prop :=
  DecodesAs 0xFC00FFFF 0x00000018 (fun w => .mult (fieldRs w) (fieldRt w)) ∧
  DecodesAs 0xFC00FFFF 0x00000019 (fun w => .multu (fieldRs w) (fieldRt w)) ∧
  ∀ (rs rt : Reg) (s : State),
    (∃ hi lo : Word, WritesHiLo s hi lo (exec (.mult rs rt) s) ∧ (hi ++ lo).toInt = s32 s rs * s32 s rt) ∧
    (∃ hi lo : Word, WritesHiLo s hi lo (exec (.multu rs rt) s) ∧ (hi ++ lo).toNat = u32 s rs * u32 s rt)

/-- R232, R233: the quotient truncates toward zero in LO, the remainder with the sign of the dividend in HI; `-2^31 / -1`
wraps; a zero divisor leaves the free values of log 2, of which nothing is said; no division faults. -/
def Obligations.DivideLeavesQuotientAndRemainder : Prop :=
  DecodesAs 0xFC00FFFF 0x0000001A (fun w => .div (fieldRs w) (fieldRt w)) ∧
  DecodesAs 0xFC00FFFF 0x0000001B (fun w => .divu (fieldRs w) (fieldRt w)) ∧
  ∀ (rs rt : Reg) (s : State),
    (∃ hi lo : Word, WritesHiLo s hi lo (exec (.div rs rt) s) ∧
      (s32 s rt = 0 → (hi, lo) = Config.div0 .signed (low32 (s.reg rs)) 0#32) ∧
      (s32 s rt ≠ 0 → s32 s rs = -(2 ^ 31) → s32 s rt = -1 → lo = 0x80000000#32 ∧ hi = 0#32) ∧
      (s32 s rt ≠ 0 → ¬ (s32 s rs = -(2 ^ 31) ∧ s32 s rt = -1) →
        lo.toInt = (s32 s rs).tdiv (s32 s rt) ∧ hi.toInt = s32 s rs - lo.toInt * s32 s rt)) ∧
    (∃ hi lo : Word, WritesHiLo s hi lo (exec (.divu rs rt) s) ∧
      (u32 s rt = 0 → (hi, lo) = Config.div0 .unsigned (low32 (s.reg rs)) 0#32) ∧
      (u32 s rt ≠ 0 → lo.toNat = u32 s rs / u32 s rt ∧ hi.toNat = u32 s rs % u32 s rt))

/-- R234 to R237, R29: the moves from HI and LO sign-extend; the moves to one half take the low word and leave the other
half. -/
def Obligations.HiLoMoves : Prop :=
  DecodesAs 0xFFFF07FF 0x00000010 (fun w => .mfhi (fieldRd w)) ∧
  DecodesAs 0xFC1FFFFF 0x00000011 (fun w => .mthi (fieldRs w)) ∧
  DecodesAs 0xFFFF07FF 0x00000012 (fun w => .mflo (fieldRd w)) ∧
  DecodesAs 0xFC1FFFFF 0x00000013 (fun w => .mtlo (fieldRs w)) ∧
  ∀ (r : Reg) (s : State),
    WritesReg s r (wrap64 s.hi.toInt) (exec (.mfhi r) s) ∧ WritesReg s r (wrap64 s.lo.toInt) (exec (.mflo r) s) ∧
    WritesHiLo s (BitVec.ofNat 32 (u32 s r)) s.lo (exec (.mthi r) s) ∧
    WritesHiLo s s.hi (BitVec.ofNat 32 (u32 s r)) (exec (.mtlo r) s)

/-! ### Branches and jumps (45_branch_jump.md) -/

/-- R254 to R257: the jumps: their targets, and the return address `pc + 8` of the linking ones, written after the source
register is read. -/
def Obligations.JumpsStageTargets : Prop :=
  DecodesAs 0xFC000000 0x08000000 (fun w => .j (fieldTarget w)) ∧
  DecodesAs 0xFC000000 0x0C000000 (fun w => .jal (fieldTarget w)) ∧
  DecodesAs 0xFC1FFFFF 0x00000008 (fun w => .jr (fieldRs w)) ∧
  DecodesAs 0xFC1F07FF 0x00000009 (fun w => .jalr (fieldRd w) (fieldRs w)) ∧
  ∀ (target : BitVec 26) (rd rs : Reg) (s : State),
    Transfers s True (BitVec.ofNat 64 (s.pc.toNat / 2 ^ 28 % 16 * 2 ^ 28 + target.toNat * 4)) none (exec (.j target) s) ∧
    Transfers s True (BitVec.ofNat 64 (s.pc.toNat / 2 ^ 28 % 16 * 2 ^ 28 + target.toNat * 4)) (some 31#5)
      (exec (.jal target) s) ∧
    Transfers s True (s.reg rs) none (exec (.jr rs) s) ∧
    Transfers s True (s.reg rs) (some rd) (exec (.jalr rd rs) s)

/-- R258 to R263, R274: the plain branches and the two rows of `B`: condition on all 64 bits, target `pc + 4 + 4 * offset`;
a branch not taken skips its slot. -/
def Obligations.BranchesTakeOrSkip : Prop :=
  (∀ w : Word, w &&& 0xFC000000 = 0x10000000 → w &&& 0xFFFF0000 ≠ 0x10000000 →
    decodeWord w = some (.beq (fieldRs w) (fieldRt w) (fieldImm w))) ∧
  DecodesAs 0xFC000000 0x14000000 (fun w => .bne (fieldRs w) (fieldRt w) (fieldImm w)) ∧
  DecodesAs 0xFC1F0000 0x18000000 (fun w => .blez (fieldRs w) (fieldImm w)) ∧
  DecodesAs 0xFC1F0000 0x1C000000 (fun w => .bgtz (fieldRs w) (fieldImm w)) ∧
  DecodesAs 0xFC1F0000 0x04000000 (fun w => .bltz (fieldRs w) (fieldImm w)) ∧
  (∀ w : Word, w &&& 0xFC1F0000 = 0x04010000 → w &&& 0xFFFF0000 ≠ 0x04010000 →
    decodeWord w = some (.bgez (fieldRs w) (fieldImm w))) ∧
  DecodesAs 0xFFFF0000 0x10000000 (fun w => .b (fieldImm w)) ∧
  DecodesAs 0xFFFF0000 0x04010000 (fun w => .bRegimm (fieldImm w)) ∧
  ∀ (rs rt : Reg) (offset : BitVec 16) (s : State),
    let target := wrap64 ((s.pc.toNat : Int) + 4 + offset.toInt * 4)
    Transfers s (s.reg rs = s.reg rt) target none (exec (.beq rs rt offset) s) ∧
    Transfers s (s.reg rs ≠ s.reg rt) target none (exec (.bne rs rt offset) s) ∧
    Transfers s (s64 s rs ≤ 0) target none (exec (.blez rs offset) s) ∧
    Transfers s (0 < s64 s rs) target none (exec (.bgtz rs offset) s) ∧
    Transfers s (s64 s rs < 0) target none (exec (.bltz rs offset) s) ∧
    Transfers s (0 ≤ s64 s rs) target none (exec (.bgez rs offset) s) ∧
    Transfers s True target none (exec (.b offset) s) ∧
    Transfers s True target none (exec (.bRegimm offset) s)

/-- R264, R265, R272, R273: the linking branches, plain and likely: the condition is of the old register, the link is
written taken or not, a branch not taken skips its slot. -/
def Obligations.LinkingBranchesLinkAlways : Prop :=
  DecodesAs 0xFC1F0000 0x04100000 (fun w => .bltzal (fieldRs w) (fieldImm w)) ∧
  DecodesAs 0xFC1F0000 0x04110000 (fun w => .bgezal (fieldRs w) (fieldImm w)) ∧
  DecodesAs 0xFC1F0000 0x04120000 (fun w => .bltzall (fieldRs w) (fieldImm w)) ∧
  DecodesAs 0xFC1F0000 0x04130000 (fun w => .bgezall (fieldRs w) (fieldImm w)) ∧
  ∀ (rs : Reg) (offset : BitVec 16) (s : State),
    let target := wrap64 ((s.pc.toNat : Int) + 4 + offset.toInt * 4)
    Transfers s (s64 s rs < 0) target (some 31#5) (exec (.bltzal rs offset) s) ∧
    Transfers s (0 ≤ s64 s rs) target (some 31#5) (exec (.bgezal rs offset) s) ∧
    Transfers s (s64 s rs < 0) target (some 31#5) (exec (.bltzall rs offset) s) ∧
    Transfers s (0 ≤ s64 s rs) target (some 31#5) (exec (.bgezall rs offset) s)

/-- R266 to R271: the likely branches behave as their plain forms. -/
def Obligations.LikelyBranchesTakeOrSkip : Prop :=
  DecodesAs 0xFC000000 0x50000000 (fun w => .beql (fieldRs w) (fieldRt w) (fieldImm w)) ∧
  DecodesAs 0xFC000000 0x54000000 (fun w => .bnel (fieldRs w) (fieldRt w) (fieldImm w)) ∧
  DecodesAs 0xFC1F0000 0x58000000 (fun w => .blezl (fieldRs w) (fieldImm w)) ∧
  DecodesAs 0xFC1F0000 0x5C000000 (fun w => .bgtzl (fieldRs w) (fieldImm w)) ∧
  DecodesAs 0xFC1F0000 0x04020000 (fun w => .bltzl (fieldRs w) (fieldImm w)) ∧
  DecodesAs 0xFC1F0000 0x04030000 (fun w => .bgezl (fieldRs w) (fieldImm w)) ∧
  ∀ (rs rt : Reg) (offset : BitVec 16) (s : State),
    let target := wrap64 ((s.pc.toNat : Int) + 4 + offset.toInt * 4)
    (Transfers s (s.reg rs = s.reg rt) target none (exec (.beql rs rt offset) s) ∧
      exec (.beql rs rt offset) s = exec (.beq rs rt offset) s) ∧
    (Transfers s (s.reg rs ≠ s.reg rt) target none (exec (.bnel rs rt offset) s) ∧
      exec (.bnel rs rt offset) s = exec (.bne rs rt offset) s) ∧
    (Transfers s (s64 s rs ≤ 0) target none (exec (.blezl rs offset) s) ∧
      exec (.blezl rs offset) s = exec (.blez rs offset) s) ∧
    (Transfers s (0 < s64 s rs) target none (exec (.bgtzl rs offset) s) ∧
      exec (.bgtzl rs offset) s = exec (.bgtz rs offset) s) ∧
    (Transfers s (s64 s rs < 0) target none (exec (.bltzl rs offset) s) ∧
      exec (.bltzl rs offset) s = exec (.bltz rs offset) s) ∧
    (Transfers s (0 ≤ s64 s rs) target none (exec (.bgezl rs offset) s) ∧
      exec (.bgezl rs offset) s = exec (.bgez rs offset) s)

/-! ### Loads and stores (46_load_store.md, 47_unaligned_load_store.md) -/

/-- R291 to R297: an aligned load from RAM, boot RAM, ROM or open bus completes: the number its bytes stand for, sign- or
zero-extended as the instruction says; nothing else changes. (That a short ROM image repeats is the
model's choice, log 6.) -/
def Obligations.AlignedLoadsExtendBytes : Prop :=
  DecodesAs 0xFC000000 0x80000000 (fun w => .lb (fieldRt w) (fieldImm w) (fieldRs w)) ∧
  DecodesAs 0xFC000000 0x90000000 (fun w => .lbu (fieldRt w) (fieldImm w) (fieldRs w)) ∧
  DecodesAs 0xFC000000 0x84000000 (fun w => .lh (fieldRt w) (fieldImm w) (fieldRs w)) ∧
  DecodesAs 0xFC000000 0x94000000 (fun w => .lhu (fieldRt w) (fieldImm w) (fieldRs w)) ∧
  DecodesAs 0xFC000000 0x8C000000 (fun w => .lw (fieldRt w) (fieldImm w) (fieldRs w)) ∧
  DecodesAs 0xFC000000 0x9C000000 (fun w => .lwu (fieldRt w) (fieldImm w) (fieldRs w)) ∧
  DecodesAs 0xFC000000 0xDC000000 (fun w => .ld (fieldRt w) (fieldImm w) (fieldRs w)) ∧
  ∀ (rt base : Reg) (offset : BitVec 16) (s : State) (pa : Word) (m : Mapping), ReadsPlainly m →
    (Lands s (effAddr s base offset) 1 pa m →
      WritesReg s rt (wrap64 ((plainNumber s m pa 1 : Int).bmod (2 ^ 8))) (exec (.lb rt offset base) s) ∧
      WritesReg s rt (wrap64 (plainNumber s m pa 1)) (exec (.lbu rt offset base) s)) ∧
    (Lands s (effAddr s base offset) 2 pa m →
      WritesReg s rt (wrap64 ((plainNumber s m pa 2 : Int).bmod (2 ^ 16))) (exec (.lh rt offset base) s) ∧
      WritesReg s rt (wrap64 (plainNumber s m pa 2)) (exec (.lhu rt offset base) s)) ∧
    (Lands s (effAddr s base offset) 4 pa m →
      WritesReg s rt (wrap64 ((plainNumber s m pa 4 : Int).bmod (2 ^ 32))) (exec (.lw rt offset base) s) ∧
      WritesReg s rt (wrap64 (plainNumber s m pa 4)) (exec (.lwu rt offset base) s)) ∧
    (Lands s (effAddr s base offset) 8 pa m →
      WritesReg s rt (wrap64 (plainNumber s m pa 8)) (exec (.ld rt offset base) s))

/-- R298 to R301: an aligned store to RAM or boot RAM completes: the low bytes of the register, most significant first, at
the physical address of the effective address, and no other byte; a store to open bus is discarded. -/
def Obligations.AlignedStoresWriteBytes : Prop :=
  DecodesAs 0xFC000000 0xA0000000 (fun w => .sb (fieldRt w) (fieldImm w) (fieldRs w)) ∧
  DecodesAs 0xFC000000 0xA4000000 (fun w => .sh (fieldRt w) (fieldImm w) (fieldRs w)) ∧
  DecodesAs 0xFC000000 0xAC000000 (fun w => .sw (fieldRt w) (fieldImm w) (fieldRs w)) ∧
  DecodesAs 0xFC000000 0xFC000000 (fun w => .sd (fieldRt w) (fieldImm w) (fieldRs w)) ∧
  ∀ (rt base : Reg) (offset : BitVec 16) (s : State) (pa : Word) (m : Mapping),
    (Lands s (effAddr s base offset) 1 pa m →
      (IsRam m → Stores s pa 1 (u64 s rt) (exec (.sb rt offset base) s)) ∧
      (m.kind = .openBus → OnlyAdvances s (exec (.sb rt offset base) s))) ∧
    (Lands s (effAddr s base offset) 2 pa m →
      (IsRam m → Stores s pa 2 (u64 s rt) (exec (.sh rt offset base) s)) ∧
      (m.kind = .openBus → OnlyAdvances s (exec (.sh rt offset base) s))) ∧
    (Lands s (effAddr s base offset) 4 pa m →
      (IsRam m → Stores s pa 4 (u64 s rt) (exec (.sw rt offset base) s)) ∧
      (m.kind = .openBus → OnlyAdvances s (exec (.sw rt offset base) s))) ∧
    (Lands s (effAddr s base offset) 8 pa m →
      (IsRam m → Stores s pa 8 (u64 s rt) (exec (.sd rt offset base) s)) ∧
      (m.kind = .openBus → OnlyAdvances s (exec (.sd rt offset base) s)))

/-- R302: through any handler, device windows included, a load makes one access of its width and completes where the access
does, with the register written from the value and everything else as the access left it; a store likewise with the low
bytes of its register; and the access's fault is the instruction's fault. -/
def Obligations.LoadsAndStoresMakeOneAccess : Prop :=
  ∀ (rt base : Reg) (offset : BitVec 16) (s : State),
    (∀ (s' : State) (v : Dword),
      (memRead s (effAddr s base offset) 1 .read = .next (v, s') →
        CompletesAfter s s' rt (wrap64 ((v.toNat : Int).bmod (2 ^ 8))) (exec (.lb rt offset base) s) ∧
        CompletesAfter s s' rt v (exec (.lbu rt offset base) s)) ∧
      (memRead s (effAddr s base offset) 2 .read = .next (v, s') →
        CompletesAfter s s' rt (wrap64 ((v.toNat : Int).bmod (2 ^ 16))) (exec (.lh rt offset base) s) ∧
        CompletesAfter s s' rt v (exec (.lhu rt offset base) s)) ∧
      (memRead s (effAddr s base offset) 4 .read = .next (v, s') →
        CompletesAfter s s' rt (sextWrap v.toNat) (exec (.lw rt offset base) s) ∧
        CompletesAfter s s' rt v (exec (.lwu rt offset base) s)) ∧
      (memRead s (effAddr s base offset) 8 .read = .next (v, s') →
        CompletesAfter s s' rt v (exec (.ld rt offset base) s))) ∧
    (∀ (n : Nat) (f : Fault), memRead s (effAddr s base offset) n .read = .fault f →
      (n = 1 → exec (.lb rt offset base) s = .fault f ∧ exec (.lbu rt offset base) s = .fault f) ∧
      (n = 2 → exec (.lh rt offset base) s = .fault f ∧ exec (.lhu rt offset base) s = .fault f) ∧
      (n = 4 → exec (.lw rt offset base) s = .fault f ∧ exec (.lwu rt offset base) s = .fault f) ∧
      (n = 8 → exec (.ld rt offset base) s = .fault f)) ∧
    (∀ (n : Nat) (i : Instr), (n, i) ∈ [(1, Instr.sb rt offset base), (2, Instr.sh rt offset base),
        (4, Instr.sw rt offset base), (8, Instr.sd rt offset base)] →
      (∀ s', memWrite s (effAddr s base offset) n (s.reg rt) = .next s' →
        CompletesAfter s s' rt (s.reg rt) (exec i s)) ∧
      (∀ f, memWrite s (effAddr s base offset) n (s.reg rt) = .fault f → exec i s = .fault f))

/-- R320 to R322, R325, R326: the partial-word loads from RAM, ROM or open bus complete: byte by byte, the covered bytes of the aligned
block replace the most (left) or least (right) significant bytes of the old register; the word forms sign-extend. (That a short ROM image repeats is the model's choice,
log 6.) -/
def Obligations.PartialLoadsMergeBytes : Prop :=
  DecodesAs 0xFC000000 0x88000000 (fun w => .lwl (fieldRt w) (fieldImm w) (fieldRs w)) ∧
  DecodesAs 0xFC000000 0x98000000 (fun w => .lwr (fieldRt w) (fieldImm w) (fieldRs w)) ∧
  DecodesAs 0xFC000000 0x68000000 (fun w => .ldl (fieldRt w) (fieldImm w) (fieldRs w)) ∧
  DecodesAs 0xFC000000 0x6C000000 (fun w => .ldr (fieldRt w) (fieldImm w) (fieldRs w)) ∧
  ∀ (rt base : Reg) (offset : BitVec 16) (s : State) (pa : Word) (m : Mapping), mapWf s.map = true → ReadsPlainly m →
    Lands s (effAddr s base offset) 1 pa m →
    let b4 := (effAddr s base offset).toNat % 4
    let b8 := (effAddr s base offset).toNat % 8
    (∃ r : Word, WritesReg s rt (wrap64 r.toInt) (exec (.lwl rt offset base) s) ∧
      ∀ k < 4, byteOf 4 r.toNat k = if k ≤ 3 - b4 then plainByte s m (pa.toNat + k) else byteOf 4 (u32 s rt) k) ∧
    (∃ r : Word, WritesReg s rt (wrap64 r.toInt) (exec (.lwr rt offset base) s) ∧
      ∀ k < 4, byteOf 4 r.toNat k = if 3 - b4 ≤ k then plainByte s m (pa.toNat + k - 3) else byteOf 4 (u32 s rt) k) ∧
    (∃ r : Dword, WritesReg s rt r (exec (.ldl rt offset base) s) ∧
      ∀ k < 8, byteOf 8 r.toNat k = if k ≤ 7 - b8 then plainByte s m (pa.toNat + k) else byteOf 8 (u64 s rt) k) ∧
    (∃ r : Dword, WritesReg s rt r (exec (.ldr rt offset base) s) ∧
      ∀ k < 8, byteOf 8 r.toNat k = if 7 - b8 ≤ k then plainByte s m (pa.toNat + k - 7) else byteOf 8 (u64 s rt) k)

/-- R320, R323, R324, R327, R328: the partial-word stores to RAM complete: left, the most significant bytes of the register
go to the address and the rest of its block; right, the least significant ones to the start of the block up to the
address; no other byte changes. -/
def Obligations.PartialStoresWriteCoveredBytes : Prop :=
  DecodesAs 0xFC000000 0xA8000000 (fun w => .swl (fieldRt w) (fieldImm w) (fieldRs w)) ∧
  DecodesAs 0xFC000000 0xB8000000 (fun w => .swr (fieldRt w) (fieldImm w) (fieldRs w)) ∧
  DecodesAs 0xFC000000 0xB0000000 (fun w => .sdl (fieldRt w) (fieldImm w) (fieldRs w)) ∧
  DecodesAs 0xFC000000 0xB4000000 (fun w => .sdr (fieldRt w) (fieldImm w) (fieldRs w)) ∧
  ∀ (rt base : Reg) (offset : BitVec 16) (s : State) (pa : Word) (m : Mapping), mapWf s.map = true → IsRam m →
    Lands s (effAddr s base offset) 1 pa m →
    let b4 := (effAddr s base offset).toNat % 4
    let b8 := (effAddr s base offset).toNat % 8
    Stores s pa (4 - b4) (u32 s rt / 256 ^ b4) (exec (.swl rt offset base) s) ∧
    Stores s (pa - BitVec.ofNat 32 b4) (b4 + 1) (u32 s rt) (exec (.swr rt offset base) s) ∧
    Stores s pa (8 - b8) (u64 s rt / 256 ^ b8) (exec (.sdl rt offset base) s) ∧
    Stores s (pa - BitVec.ofNat 32 b8) (b8 + 1) (u64 s rt) (exec (.sdr rt offset base) s)

/-- R320: through any handler, device windows included, a partial-word load or store makes one single-byte access per
covered byte, in ascending order, and completes where they do, with the register merged from the bytes read (loads) and
everything else as the accesses left it; the fault of an access is the instruction's fault. -/
def Obligations.PartialWordMovesByteByByte : Prop :=
  ∀ (rt base : Reg) (offset : BitVec 16) (s : State),
    let va := low32 (effAddr s base offset)
    (∀ (bytes : List Byte) (s' : State),
      (readEach s (leftOf 4 va) = .next (bytes, s') →
        CompletesAfter s s' rt (sextWrap (mergeLeft 4 va bytes (u32 s rt))) (exec (.lwl rt offset base) s)) ∧
      (readEach s (rightOf 4 va) = .next (bytes, s') →
        CompletesAfter s s' rt (sextWrap (mergeRight 4 va bytes (u32 s rt))) (exec (.lwr rt offset base) s)) ∧
      (readEach s (leftOf 8 va) = .next (bytes, s') →
        CompletesAfter s s' rt (wrap64 (mergeLeft 8 va bytes (u64 s rt))) (exec (.ldl rt offset base) s)) ∧
      (readEach s (rightOf 8 va) = .next (bytes, s') →
        CompletesAfter s s' rt (wrap64 (mergeRight 8 va bytes (u64 s rt))) (exec (.ldr rt offset base) s))) ∧
    (∀ f : Fault,
      (readEach s (leftOf 4 va) = .fault f → exec (.lwl rt offset base) s = .fault f) ∧
      (readEach s (rightOf 4 va) = .fault f → exec (.lwr rt offset base) s = .fault f) ∧
      (readEach s (leftOf 8 va) = .fault f → exec (.ldl rt offset base) s = .fault f) ∧
      (readEach s (rightOf 8 va) = .fault f → exec (.ldr rt offset base) s = .fault f)) ∧
    (∀ (cells : List (Word × Byte)) (i : Instr),
      (cells, i) ∈ [(leftCells 4 va (u32 s rt), Instr.swl rt offset base),
        (rightCells 4 va (u32 s rt), Instr.swr rt offset base), (leftCells 8 va (u64 s rt), Instr.sdl rt offset base),
        (rightCells 8 va (u64 s rt), Instr.sdr rt offset base)] →
      (∀ s', writeEach s cells = .next s' → CompletesAfter s s' rt (s.reg rt) (exec i s)) ∧
      (∀ f, writeEach s cells = .fault f → exec i s = .fault f))

/-! ### System control (48_cop0_system.md) -/

/-- R341 to R344 (with R32, R376): the moves from a system-control register, all 32 of them readable; the moves to one write the four
writable registers and fault on every other number with the state as it was. -/
def Obligations.Cop0MovesAndWhitelist : Prop :=
  DecodesAs 0xFFE007FF 0x40000000 (fun w => .mfc0 (fieldRt w) (fieldRd w)) ∧
  DecodesAs 0xFFE007FF 0x40200000 (fun w => .dmfc0 (fieldRt w) (fieldRd w)) ∧
  DecodesAs 0xFFE007FF 0x40800000 (fun w => .mtc0 (fieldRt w) (fieldRd w)) ∧
  DecodesAs 0xFFE007FF 0x40A00000 (fun w => .dmtc0 (fieldRt w) (fieldRd w)) ∧
  ∀ (rt number : Reg) (s : State),
    WritesReg s rt (sextWrap (s.cop0 number).toNat) (exec (.mfc0 rt number) s) ∧
    WritesReg s rt (s.cop0 number) (exec (.dmfc0 rt number) s) ∧
    (number ∈ [6#5, 9#5, 11#5, 13#5] → ∀ i v, (i, v) ∈ [(Instr.mtc0 rt number, sextWrap (s32 s rt)),
        (Instr.dmtc0 rt number, s.reg rt)] →
      ∃ t, exec i s = .next t ∧ t.cop0 number = v ∧ (∀ j : Reg, j ≠ number → t.cop0 j = s.cop0 j) ∧
        (∀ q : Reg, t.reg q = s.reg q) ∧ t.pc = s.pc + 4#64 ∧ t.hi = s.hi ∧ t.lo = s.lo ∧ t.bd = s.bd ∧
        t.fcr0 = s.fcr0 ∧ t.fcr31 = s.fcr31 ∧ t.cycles = s.cycles ∧ t.tlb = s.tlb ∧ t.map = s.map ∧ t.draws = s.draws ∧
        SameBytes s t) ∧
    (number ∉ [6#5, 9#5, 11#5, 13#5] →
      exec (.mtc0 rt number) s = .fault (.unsupportedRegisterWrite number s.context) ∧
      exec (.dmtc0 rt number) s = .fault (.unsupportedRegisterWrite number s.context))

/-- R345 to R347: `SYNC`, `CACHE` (every operation, at every address) and `NOP` only advance `pc`. -/
def Obligations.NoOpsOnlyAdvance : Prop :=
  DecodesAs 0xFFFFFFFF 0x00000000 (fun _ => .nop) ∧
  DecodesAs 0xFFFFFFFF 0x0000000F (fun _ => .sync) ∧
  DecodesAs 0xFC000000 0xBC000000 (fun w => .cache (fieldRt w) (fieldImm w) (fieldRs w)) ∧
  ∀ (op : BitVec 5) (offset : BitVec 16) (base : Reg) (s : State),
    OnlyAdvances s (exec .nop s) ∧ OnlyAdvances s (exec .sync s) ∧ OnlyAdvances s (exec (.cache op offset base) s)

/-- R348 to R360: the twelve instructions of kind `unsupported` raise `UnsupportedInstruction` with their mnemonic and the
state as it was, whatever their operands: no address is computed, nothing is accessed. -/
def Obligations.UnsupportedInstructionsFault : Prop :=
  DecodesAs 0xFC00003F 0x0000000C (fun w => .syscall (fieldCode w)) ∧
  DecodesAs 0xFC00003F 0x0000000D (fun w => .breakI (fieldCode w)) ∧
  DecodesAs 0xFFFFFFFF 0x42000018 (fun _ => .eret) ∧ DecodesAs 0xFFFFFFFF 0x42000001 (fun _ => .tlbr) ∧
  DecodesAs 0xFFFFFFFF 0x42000002 (fun _ => .tlbwi) ∧ DecodesAs 0xFFFFFFFF 0x42000006 (fun _ => .tlbwr) ∧
  DecodesAs 0xFFFFFFFF 0x42000008 (fun _ => .tlbp) ∧
  DecodesAs 0xFC000000 0xC4000000 (fun w => .lwc1 (fieldRt w) (fieldImm w) (fieldRs w)) ∧
  DecodesAs 0xFC000000 0xD4000000 (fun w => .ldc1 (fieldRt w) (fieldImm w) (fieldRs w)) ∧
  DecodesAs 0xFC000000 0x44000000 (fun w => .cop1 (fieldTarget w)) ∧
  DecodesAs 0xFC000000 0xE4000000 (fun w => .swc1 (fieldRt w) (fieldImm w) (fieldRs w)) ∧
  DecodesAs 0xFC000000 0xF4000000 (fun w => .sdc1 (fieldRt w) (fieldImm w) (fieldRs w)) ∧
  ∀ (code : BitVec 20) (cofun : BitVec 26) (ft base : Reg) (offset : BitVec 16) (s : State) (i : Instr) (name : String),
    (i, name) ∈ [(Instr.syscall code, "SYSCALL"), (Instr.breakI code, "BREAK"), (Instr.eret, "ERET"),
      (Instr.tlbr, "TLBR"), (Instr.tlbwi, "TLBWI"), (Instr.tlbwr, "TLBWR"), (Instr.tlbp, "TLBP"),
      (Instr.lwc1 ft offset base, "LWC1"), (Instr.ldc1 ft offset base, "LDC1"), (Instr.cop1 cofun, "COP1"),
      (Instr.swc1 ft offset base, "SWC1"), (Instr.sdc1 ft offset base, "SDC1")] →
    exec i s = .fault (.unsupportedInstruction name s.context)
end

