-- ==== Sys2Proof/Laws/Memory.lean ====
section
/-! SUPPORT. Laws of byte storage: what reads give after writes, that writes keep the canonical form, that canonical storage
is determined by its reads, and that the two conversions between bytes and values are inverse. -/

namespace Sys2Proof.Machine

/-! ### Reads after writes -/

theorem Memory.read_erase (m : List Host.Cell) (a k : Nat) :
    Memory.read (Memory.erase m a) k = if k = a then 0#8 else Memory.read m k := by
  induction m with
  | nil => simp [Memory.erase, Memory.read]
  | cons c rest ih =>
    obtain ⟨j, v⟩ := c
    simp only [Memory.erase] at ih ⊢
    by_cases hj : j = a
    · simp only [hj, bne_self_eq_false, Bool.false_eq_true, not_false_eq_true, List.filter_cons_of_neg, ih, Memory.read]
      split <;> rename_i h
      · rfl
      · simp [Ne.symm h]
    · rw [List.filter_cons_of_pos (by simpa using hj)]
      simp only [Memory.read, ih]
      split <;> rename_i h <;> split <;> rename_i h' <;> simp_all

theorem Memory.read_insert (m : List Host.Cell) (a k : Nat) (b : Byte) :
    Memory.read (Memory.insert m a b) k = if k = a then b else Memory.read m k := by
  induction m with
  | nil => simp [Memory.insert, Memory.read, eq_comm]
  | cons c rest ih =>
    obtain ⟨j, v⟩ := c
    simp only [Memory.insert]
    split
    · simp only [Memory.read, eq_comm]
    · split
      · simp only [Memory.read, eq_comm]
        rename_i h; subst h
        by_cases hk : k = a <;> simp [hk]
      · simp only [Memory.read, ih]
        split <;> rename_i h <;> split <;> rename_i h' <;> simp_all

/-- A read after a one-byte write. -/
theorem Memory.read_write (m : List Host.Cell) (a k : Nat) (b : Byte) :
    Memory.read (Memory.write m a b) k = if k = a then b else Memory.read m k := by
  unfold Memory.write
  split
  · rename_i h; subst h; exact Memory.read_erase m a k
  · exact Memory.read_insert m a k b

/-- A read after a write of several bytes. -/
theorem Memory.read_writeBytes (bs : List Byte) (m : List Host.Cell) (a k : Nat) :
    Memory.read (Memory.writeBytes m a bs) k =
      if a ≤ k then (bs[k - a]?).getD (Memory.read m k) else Memory.read m k := by
  induction bs generalizing m a with
  | nil => simp [Memory.writeBytes]
  | cons b bs ih =>
    simp only [Memory.writeBytes, ih, Memory.read_write]
    by_cases h1 : a + 1 ≤ k
    · have h2 : k - a = (k - (a + 1)) + 1 := by omega
      have h3 : k ≠ a := by omega
      simp only [h1, if_true, show a ≤ k by omega, h2, List.getElem?_cons_succ, h3, if_false]
    · by_cases h2 : k = a
      · subst h2; simp
      · simp [h1, h2, show ¬ a ≤ k by omega]

/-- Bytes outside a write are untouched. -/
theorem Memory.read_writeBytes_outside (bs : List Byte) (m : List Host.Cell) (a k : Nat)
    (h : k < a ∨ a + bs.length ≤ k) : Memory.read (Memory.writeBytes m a bs) k = Memory.read m k := by
  rw [Memory.read_writeBytes]
  split
  · rw [List.getElem?_eq_none (by omega)]; rfl
  · rfl

@[simp] theorem Memory.readBytes_length (m : List Host.Cell) (a n : Nat) : (Memory.readBytes m a n).length = n := by
  induction n generalizing a with
  | zero => rfl
  | succ n ih => simp [Memory.readBytes, ih]

theorem Memory.readBytes_getElem? (m : List Host.Cell) (a n i : Nat) (h : i < n) :
    (Memory.readBytes m a n)[i]? = some (Memory.read m (a + i)) := by
  induction n generalizing a i with
  | zero => omega
  | succ n ih =>
    cases i with
    | zero => rfl
    | succ i => simp only [Memory.readBytes, List.getElem?_cons_succ]; rw [ih (a + 1) i (by omega)]; congr 2; omega

/-- Several bytes agree where each of them does. -/
theorem Memory.readBytes_congr (m m' : List Host.Cell) (a n : Nat)
    (h : ∀ i < n, Memory.read m (a + i) = Memory.read m' (a + i)) : Memory.readBytes m a n = Memory.readBytes m' a n := by
  induction n generalizing a with
  | zero => rfl
  | succ n ih =>
    simp only [Memory.readBytes]
    congr 1
    · exact h 0 (by omega)
    · exact ih (a + 1) fun i hi => by have := h (i + 1) (by omega); rwa [show a + 1 + i = a + (i + 1) by omega]

/-- What was written is what is read. -/
theorem Memory.readBytes_writeBytes (m : List Host.Cell) (a : Nat) (bs : List Byte) :
    Memory.readBytes (Memory.writeBytes m a bs) a bs.length = bs := by
  apply List.ext_getElem?
  intro i
  by_cases h : i < bs.length
  · rw [Memory.readBytes_getElem? _ _ _ _ h, Memory.read_writeBytes]
    simp [List.getElem?_eq_getElem h]
  · rw [List.getElem?_eq_none (by simpa using h), List.getElem?_eq_none (by simpa using h)]

/-! ### The canonical form -/

theorem Memory.wf_cons {c : Host.Cell} {rest : List Host.Cell} :
    Memory.wf (c :: rest) = true ↔ (∀ d ∈ rest, c.1 < d.1) ∧ c.2 ≠ 0#8 ∧ Memory.wf rest = true := by
  obtain ⟨k, v⟩ := c
  simp [Memory.wf, and_assoc]

theorem Memory.wf_erase {m : List Host.Cell} (h : Memory.wf m = true) (a : Nat) : Memory.wf (Memory.erase m a) = true := by
  induction m with
  | nil => rfl
  | cons c rest ih =>
    obtain ⟨h1, h2, h3⟩ := Memory.wf_cons.mp h
    simp only [Memory.erase] at ih ⊢
    rw [List.filter_cons]
    split
    · refine Memory.wf_cons.mpr ⟨fun d hd => h1 d (List.mem_filter.mp hd).1, h2, ih h3⟩
    · exact ih h3

theorem Memory.mem_insert {m : List Host.Cell} {a : Nat} {b : Byte} {d : Host.Cell}
    (h : d ∈ Memory.insert m a b) : d = (a, b) ∨ d ∈ m := by
  induction m with
  | nil => simpa [Memory.insert] using h
  | cons c rest ih =>
    obtain ⟨k, v⟩ := c
    simp only [Memory.insert] at h
    split at h
    · simpa using h
    · split at h
      · rcases List.mem_cons.mp h with h | h
        · exact .inl h
        · exact .inr (List.mem_cons_of_mem _ h)
      · rcases List.mem_cons.mp h with h | h
        · exact .inr (by simp [h])
        · rcases ih h with h | h
          · exact .inl h
          · exact .inr (List.mem_cons_of_mem _ h)

theorem Memory.wf_insert {m : List Host.Cell} (h : Memory.wf m = true) (a : Nat) {b : Byte} (hb : b ≠ 0#8) :
    Memory.wf (Memory.insert m a b) = true := by
  induction m with
  | nil => simp [Memory.insert, Memory.wf, hb]
  | cons c rest ih =>
    obtain ⟨k, v⟩ := c
    obtain ⟨h1, h2, h3⟩ := Memory.wf_cons.mp h
    simp only [Memory.insert]
    split
    · rename_i hk
      refine Memory.wf_cons.mpr ⟨fun d hd => ?_, hb, h⟩
      rcases List.mem_cons.mp hd with rfl | hd
      · exact hk
      · exact Nat.lt_trans hk (h1 d hd)
    · split
      · rename_i hk; subst hk
        exact Memory.wf_cons.mpr ⟨h1, hb, h3⟩
      · refine Memory.wf_cons.mpr ⟨fun d hd => ?_, h2, ih h3⟩
        rcases Memory.mem_insert hd with rfl | hd
        · show k < a; omega
        · exact h1 d hd

/-- A write keeps the canonical form. -/
theorem Memory.wf_write {m : List Host.Cell} (h : Memory.wf m = true) (a : Nat) (b : Byte) :
    Memory.wf (Memory.write m a b) = true := by
  unfold Memory.write
  split
  · exact Memory.wf_erase h a
  · rename_i hb; exact Memory.wf_insert h a hb

theorem Memory.wf_writeBytes (bs : List Byte) {m : List Host.Cell} (h : Memory.wf m = true) (a : Nat) :
    Memory.wf (Memory.writeBytes m a bs) = true := by
  induction bs generalizing m a with
  | nil => exact h
  | cons b bs ih => exact ih (Memory.wf_write h a b) (a + 1)

theorem Memory.wf_writeCells (cs : List Host.Cell) {m : List Host.Cell} (h : Memory.wf m = true) :
    Memory.wf (Memory.writeCells m cs) = true := by
  induction cs generalizing m with
  | nil => exact h
  | cons c cs ih => exact ih (Memory.wf_write h c.1 c.2)

/-- An address below every listed one reads 0. -/
theorem Memory.read_below {m : List Host.Cell} {a : Nat} (h : ∀ d ∈ m, a < d.1) : Memory.read m a = 0#8 := by
  induction m with
  | nil => rfl
  | cons c rest ih =>
    obtain ⟨k, v⟩ := c
    have := h (k, v) (by simp)
    simp only [Memory.read]
    rw [if_neg (by simp only at this; omega)]
    exact ih fun d hd => h d (List.mem_cons_of_mem _ hd)

/-- Canonical storage is determined by what it reads: equal memories are equal data. -/
theorem Memory.canonical_ext {m m' : List Host.Cell} (h : Memory.wf m = true) (h' : Memory.wf m' = true)
    (e : ∀ a, Memory.read m a = Memory.read m' a) : m = m' := by
  induction m generalizing m' with
  | nil =>
    cases m' with
    | nil => rfl
    | cons c rest =>
      obtain ⟨_, h2, _⟩ := Memory.wf_cons.mp h'
      have := e c.1
      simp [Memory.read] at this
      exact absurd this.symm h2
  | cons c rest ih =>
    obtain ⟨h1, h2, h3⟩ := Memory.wf_cons.mp h
    cases m' with
    | nil =>
      have := e c.1
      simp [Memory.read] at this
      exact absurd this h2
    | cons c' rest' =>
      obtain ⟨k, v⟩ := c
      obtain ⟨k', v'⟩ := c'
      obtain ⟨h1', h2', h3'⟩ := Memory.wf_cons.mp h'
      have hk : k = k' := by
        rcases Nat.lt_trichotomy k k' with hlt | heq | hgt
        · have e1 := e k
          rw [Memory.read_below (m := (k', v') :: rest') (by
            intro d hd
            rcases List.mem_cons.mp hd with rfl | hd
            · exact hlt
            · exact Nat.lt_trans hlt (h1' d hd))] at e1
          simp [Memory.read] at e1
          exact absurd e1 h2
        · exact heq
        · have e1 := e k'
          rw [Memory.read_below (m := (k, v) :: rest) (by
            intro d hd
            rcases List.mem_cons.mp hd with rfl | hd
            · exact hgt
            · exact Nat.lt_trans hgt (h1 d hd))] at e1
          simp [Memory.read] at e1
          exact absurd e1.symm h2'
      subst hk
      have hv : v = v' := by simpa [Memory.read] using e k
      subst hv
      congr 1
      refine ih h3 h3' fun a => ?_
      by_cases ha : k = a
      · subst ha
        rw [Memory.read_below h1, Memory.read_below h1']
      · have := e a
        simpa [Memory.read, ha] using this

/-! ### Bytes and values (20_memory.md R62) -/

@[simp] theorem beBytes_length (n : Nat) (v : Dword) : (beBytes n v).length = n := by
  induction n with
  | zero => rfl
  | succ n ih => simp [beBytes, ih]

/-- Byte `i` of a value of `n` bytes is bits `8(n-i)-1` to `8(n-i-1)`. -/
theorem beBytes_getElem? (n : Nat) (v : Dword) (i : Nat) (h : i < n) :
    (beBytes n v)[i]? = some ((v >>> (8 * (n - 1 - i))).setWidth 8) := by
  induction n generalizing i with
  | zero => omega
  | succ n ih =>
    cases i with
    | zero => simp [beBytes]
    | succ i => simp only [beBytes, List.getElem?_cons_succ]; rw [ih i (by omega)]; congr 4; omega

theorem beValue_append (xs : List Byte) (b : Byte) : beValue (xs ++ [b]) = (beValue xs <<< 8) ||| b.setWidth 64 := by
  simp [beValue, List.foldl_append]

/-- The number big-endian bytes stand for. -/
def bigEndian : List Byte → Nat
  | [] => 0
  | b :: bs => b.toNat * 256 ^ bs.length + bigEndian bs

theorem bigEndian_lt (bs : List Byte) : bigEndian bs < 256 ^ bs.length := by
  induction bs with
  | nil => simp [bigEndian]
  | cons b bs ih =>
    have hb : b.toNat < 256 := b.isLt
    simp only [bigEndian, List.length_cons, Nat.pow_succ]
    calc b.toNat * 256 ^ bs.length + bigEndian bs < b.toNat * 256 ^ bs.length + 256 ^ bs.length := by omega
      _ = (b.toNat + 1) * 256 ^ bs.length := by ring
      _ ≤ 256 * 256 ^ bs.length := Nat.mul_le_mul_right _ hb
      _ = 256 ^ bs.length * 256 := by ring

/-- One more byte. -/
theorem shiftOr_toNat (acc : Dword) (b : Byte) :
    ((acc <<< 8) ||| b.setWidth 64).toNat = (acc.toNat * 256 + b.toNat) % 2 ^ 64 := by
  have hb : b.toNat < 2 ^ 8 := b.isLt
  have h1 : (acc <<< 8).toNat = (acc.toNat % 2 ^ 56) <<< 8 := by
    rw [BitVec.toNat_shiftLeft]; simp only [Nat.shiftLeft_eq]; omega
  rw [BitVec.toNat_or, h1, BitVec.toNat_setWidth, Nat.mod_eq_of_lt (by omega : b.toNat < 2 ^ 64),
    ← Nat.shiftLeft_add_eq_or_of_lt hb, Nat.shiftLeft_eq]
  omega

theorem foldl_beValue (bs : List Byte) (acc : Dword) :
    (bs.foldl (fun (acc : Dword) (b : Byte) => (acc <<< 8) ||| b.setWidth 64) acc).toNat =
      (acc.toNat * 256 ^ bs.length + bigEndian bs) % 2 ^ 64 := by
  induction bs generalizing acc with
  | nil => simp only [List.foldl_nil, List.length_nil, bigEndian, Nat.pow_zero, Nat.mul_one, Nat.add_zero]; have := acc.isLt; omega
  | cons b bs ih =>
    simp only [List.foldl_cons]
    rw [ih, shiftOr_toNat]
    simp only [bigEndian, List.length_cons, Nat.pow_succ]
    rw [Nat.add_mod, Nat.mod_mul_mod, ← Nat.add_mod]
    congr 1; ring

/-- The value of bytes as a number (20_memory.md R62). -/
theorem beValue_toNat (bs : List Byte) (h : bs.length ≤ 8) : (beValue bs).toNat = bigEndian bs := by
  have h2 : bigEndian bs < 2 ^ 64 := by
    refine lt_of_lt_of_le (bigEndian_lt bs) ?_
    calc 256 ^ bs.length ≤ 256 ^ 8 := Nat.pow_le_pow_right (by norm_num) h
      _ = 2 ^ 64 := by norm_num
  rw [beValue, foldl_beValue]
  simpa using h2

/-- The bytes of a value as a number: its low `8n` bits. -/
theorem bigEndian_beBytes (n : Nat) (v : Dword) : bigEndian (beBytes n v) = v.toNat % 256 ^ n := by
  induction n with
  | zero => simp [beBytes, bigEndian, Nat.mod_one]
  | succ n ih =>
    simp only [beBytes, bigEndian, beBytes_length, ih]
    have : ((v >>> (8 * n)).setWidth 8).toNat = v.toNat / 256 ^ n % 256 := by
      simp [BitVec.toNat_setWidth, BitVec.toNat_ushiftRight, Nat.shiftRight_eq_div_pow, Nat.pow_mul]
    rw [this, Nat.pow_succ, Nat.mod_mul]
    ring

/-- A value written as bytes reads back as its low `8n` bits. -/
theorem beValue_beBytes_toNat (n : Nat) (v : Dword) (h : n ≤ 8) : (beValue (beBytes n v)).toNat = v.toNat % 256 ^ n := by
  rw [beValue_toNat _ (by simpa using h), bigEndian_beBytes]

/-- Bytes are determined by the number they stand for. -/
theorem bigEndian_inj {bs cs : List Byte} (hl : bs.length = cs.length) (h : bigEndian bs = bigEndian cs) : bs = cs := by
  induction bs generalizing cs with
  | nil => cases cs <;> simp_all
  | cons b bs ih =>
    cases cs with
    | nil => simp at hl
    | cons c cs =>
      simp only [List.length_cons, Nat.add_right_cancel_iff] at hl
      simp only [bigEndian, hl] at h
      have h1 := bigEndian_lt bs
      have h2 := bigEndian_lt cs
      rw [hl] at h1
      have hp : 0 < 256 ^ cs.length := Nat.pos_of_ne_zero (by positivity)
      have e1 : b.toNat = c.toNat := by
        have h3 := congrArg (· / 256 ^ cs.length) h
        simp only [Nat.add_comm _ (bigEndian _), Nat.add_mul_div_right _ _ hp, Nat.div_eq_of_lt h1,
          Nat.div_eq_of_lt h2, Nat.zero_add] at h3
        exact h3
      have e2 : bigEndian bs = bigEndian cs := by rw [e1] at h; omega
      rw [BitVec.eq_of_toNat_eq e1, ih hl e2]

/-- The bytes of the value of some bytes are those bytes. -/
theorem beBytes_beValue (bs : List Byte) (h : bs.length ≤ 8) : beBytes bs.length (beValue bs) = bs := by
  apply bigEndian_inj (by simp)
  rw [bigEndian_beBytes, beValue_toNat bs h, Nat.mod_eq_of_lt (bigEndian_lt bs)]

theorem beValue_nil : beValue [] = 0#64 := rfl
theorem beValue_one (b : Byte) : beValue [b] = b.setWidth 64 := by simp [beValue]

end Sys2Proof.Machine
end

