-- ==== Sys2Proof/Laws/State.lean ====
section
/-! SUPPORT. One lemma per field per update, so that no proof unfolds a record update; then what the register accessors read
after a write. -/

namespace Sys2Proof.Machine

section setReg
variable (s : State) (r : Reg) (v : Dword)
@[simp] theorem State.setReg_pc : (s.setReg r v).pc = s.pc := by unfold State.setReg; split <;> rfl
@[simp] theorem State.setReg_hi : (s.setReg r v).hi = s.hi := by unfold State.setReg; split <;> rfl
@[simp] theorem State.setReg_lo : (s.setReg r v).lo = s.lo := by unfold State.setReg; split <;> rfl
@[simp] theorem State.setReg_c0 : (s.setReg r v).c0 = s.c0 := by unfold State.setReg; split <;> rfl
@[simp] theorem State.setReg_fcr0 : (s.setReg r v).fcr0 = s.fcr0 := by unfold State.setReg; split <;> rfl
@[simp] theorem State.setReg_fcr31 : (s.setReg r v).fcr31 = s.fcr31 := by unfold State.setReg; split <;> rfl
@[simp] theorem State.setReg_bd : (s.setReg r v).bd = s.bd := by unfold State.setReg; split <;> rfl
@[simp] theorem State.setReg_cycles : (s.setReg r v).cycles = s.cycles := by unfold State.setReg; split <;> rfl
@[simp] theorem State.setReg_tlb : (s.setReg r v).tlb = s.tlb := by unfold State.setReg; split <;> rfl
@[simp] theorem State.setReg_mem : (s.setReg r v).mem = s.mem := by unfold State.setReg; split <;> rfl
@[simp] theorem State.setReg_dev : (s.setReg r v).dev = s.dev := by unfold State.setReg; split <;> rfl
@[simp] theorem State.setReg_map : (s.setReg r v).map = s.map := by unfold State.setReg; split <;> rfl
@[simp] theorem State.setReg_draws : (s.setReg r v).draws = s.draws := by unfold State.setReg; split <;> rfl
end setReg

section setCop0
variable (s : State) (i : Reg) (v : Dword)
@[simp] theorem State.setCop0_gpr : (s.setCop0 i v).gpr = s.gpr := rfl
@[simp] theorem State.setCop0_pc : (s.setCop0 i v).pc = s.pc := rfl
@[simp] theorem State.setCop0_hi : (s.setCop0 i v).hi = s.hi := rfl
@[simp] theorem State.setCop0_lo : (s.setCop0 i v).lo = s.lo := rfl
@[simp] theorem State.setCop0_fcr0 : (s.setCop0 i v).fcr0 = s.fcr0 := rfl
@[simp] theorem State.setCop0_fcr31 : (s.setCop0 i v).fcr31 = s.fcr31 := rfl
@[simp] theorem State.setCop0_bd : (s.setCop0 i v).bd = s.bd := rfl
@[simp] theorem State.setCop0_cycles : (s.setCop0 i v).cycles = s.cycles := rfl
@[simp] theorem State.setCop0_tlb : (s.setCop0 i v).tlb = s.tlb := rfl
@[simp] theorem State.setCop0_mem : (s.setCop0 i v).mem = s.mem := rfl
@[simp] theorem State.setCop0_dev : (s.setCop0 i v).dev = s.dev := rfl
@[simp] theorem State.setCop0_map : (s.setCop0 i v).map = s.map := rfl
@[simp] theorem State.setCop0_draws : (s.setCop0 i v).draws = s.draws := rfl
end setCop0

section setHiLo
variable (s : State) (h l : Word)
@[simp] theorem State.setHiLo_gpr : (s.setHiLo h l).gpr = s.gpr := rfl
@[simp] theorem State.setHiLo_pc : (s.setHiLo h l).pc = s.pc := rfl
@[simp] theorem State.setHiLo_hi : (s.setHiLo h l).hi = h := rfl
@[simp] theorem State.setHiLo_lo : (s.setHiLo h l).lo = l := rfl
@[simp] theorem State.setHiLo_c0 : (s.setHiLo h l).c0 = s.c0 := rfl
@[simp] theorem State.setHiLo_fcr0 : (s.setHiLo h l).fcr0 = s.fcr0 := rfl
@[simp] theorem State.setHiLo_fcr31 : (s.setHiLo h l).fcr31 = s.fcr31 := rfl
@[simp] theorem State.setHiLo_bd : (s.setHiLo h l).bd = s.bd := rfl
@[simp] theorem State.setHiLo_cycles : (s.setHiLo h l).cycles = s.cycles := rfl
@[simp] theorem State.setHiLo_tlb : (s.setHiLo h l).tlb = s.tlb := rfl
@[simp] theorem State.setHiLo_mem : (s.setHiLo h l).mem = s.mem := rfl
@[simp] theorem State.setHiLo_dev : (s.setHiLo h l).dev = s.dev := rfl
@[simp] theorem State.setHiLo_map : (s.setHiLo h l).map = s.map := rfl
@[simp] theorem State.setHiLo_draws : (s.setHiLo h l).draws = s.draws := rfl
end setHiLo

section setHilo64
variable (s : State) (v : Dword)
@[simp] theorem State.setHilo64_gpr : (s.setHilo64 v).gpr = s.gpr := rfl
@[simp] theorem State.setHilo64_pc : (s.setHilo64 v).pc = s.pc := rfl
@[simp] theorem State.setHilo64_hi : (s.setHilo64 v).hi = v.extractLsb' 32 32 := rfl
@[simp] theorem State.setHilo64_lo : (s.setHilo64 v).lo = v.extractLsb' 0 32 := rfl
@[simp] theorem State.setHilo64_c0 : (s.setHilo64 v).c0 = s.c0 := rfl
@[simp] theorem State.setHilo64_fcr0 : (s.setHilo64 v).fcr0 = s.fcr0 := rfl
@[simp] theorem State.setHilo64_fcr31 : (s.setHilo64 v).fcr31 = s.fcr31 := rfl
@[simp] theorem State.setHilo64_bd : (s.setHilo64 v).bd = s.bd := rfl
@[simp] theorem State.setHilo64_cycles : (s.setHilo64 v).cycles = s.cycles := rfl
@[simp] theorem State.setHilo64_tlb : (s.setHilo64 v).tlb = s.tlb := rfl
@[simp] theorem State.setHilo64_mem : (s.setHilo64 v).mem = s.mem := rfl
@[simp] theorem State.setHilo64_dev : (s.setHilo64 v).dev = s.dev := rfl
@[simp] theorem State.setHilo64_map : (s.setHilo64 v).map = s.map := rfl
@[simp] theorem State.setHilo64_draws : (s.setHilo64 v).draws = s.draws := rfl
end setHilo64

section advance
variable (s : State)
@[simp] theorem State.advance_gpr : (s.advance).gpr = s.gpr := rfl
@[simp] theorem State.advance_pc : (s.advance).pc = s.pc + 4#64 := rfl
@[simp] theorem State.advance_hi : (s.advance).hi = s.hi := rfl
@[simp] theorem State.advance_lo : (s.advance).lo = s.lo := rfl
@[simp] theorem State.advance_c0 : (s.advance).c0 = s.c0 := rfl
@[simp] theorem State.advance_fcr0 : (s.advance).fcr0 = s.fcr0 := rfl
@[simp] theorem State.advance_fcr31 : (s.advance).fcr31 = s.fcr31 := rfl
@[simp] theorem State.advance_bd : (s.advance).bd = s.bd := rfl
@[simp] theorem State.advance_cycles : (s.advance).cycles = s.cycles := rfl
@[simp] theorem State.advance_tlb : (s.advance).tlb = s.tlb := rfl
@[simp] theorem State.advance_mem : (s.advance).mem = s.mem := rfl
@[simp] theorem State.advance_dev : (s.advance).dev = s.dev := rfl
@[simp] theorem State.advance_map : (s.advance).map = s.map := rfl
@[simp] theorem State.advance_draws : (s.advance).draws = s.draws := rfl
end advance

section linkTo
variable (s : State) (r : Reg)
@[simp] theorem State.linkTo_pc : (s.linkTo r).pc = s.pc := State.setReg_pc s r _
@[simp] theorem State.linkTo_hi : (s.linkTo r).hi = s.hi := State.setReg_hi s r _
@[simp] theorem State.linkTo_lo : (s.linkTo r).lo = s.lo := State.setReg_lo s r _
@[simp] theorem State.linkTo_c0 : (s.linkTo r).c0 = s.c0 := State.setReg_c0 s r _
@[simp] theorem State.linkTo_fcr0 : (s.linkTo r).fcr0 = s.fcr0 := State.setReg_fcr0 s r _
@[simp] theorem State.linkTo_fcr31 : (s.linkTo r).fcr31 = s.fcr31 := State.setReg_fcr31 s r _
@[simp] theorem State.linkTo_bd : (s.linkTo r).bd = s.bd := State.setReg_bd s r _
@[simp] theorem State.linkTo_cycles : (s.linkTo r).cycles = s.cycles := State.setReg_cycles s r _
@[simp] theorem State.linkTo_tlb : (s.linkTo r).tlb = s.tlb := State.setReg_tlb s r _
@[simp] theorem State.linkTo_mem : (s.linkTo r).mem = s.mem := State.setReg_mem s r _
@[simp] theorem State.linkTo_dev : (s.linkTo r).dev = s.dev := State.setReg_dev s r _
@[simp] theorem State.linkTo_map : (s.linkTo r).map = s.map := State.setReg_map s r _
@[simp] theorem State.linkTo_draws : (s.linkTo r).draws = s.draws := State.setReg_draws s r _
end linkTo

section latchSlot
variable (s : State)
@[simp] theorem State.latchSlot_gpr : (latchSlot s).gpr = s.gpr := rfl
@[simp] theorem State.latchSlot_pc : (latchSlot s).pc = s.pc := rfl
@[simp] theorem State.latchSlot_hi : (latchSlot s).hi = s.hi := rfl
@[simp] theorem State.latchSlot_lo : (latchSlot s).lo = s.lo := rfl
@[simp] theorem State.latchSlot_c0 : (latchSlot s).c0 = s.c0 := rfl
@[simp] theorem State.latchSlot_fcr0 : (latchSlot s).fcr0 = s.fcr0 := rfl
@[simp] theorem State.latchSlot_fcr31 : (latchSlot s).fcr31 = s.fcr31 := rfl
@[simp] theorem State.latchSlot_bd : (latchSlot s).bd = none := rfl
@[simp] theorem State.latchSlot_cycles : (latchSlot s).cycles = s.cycles := rfl
@[simp] theorem State.latchSlot_tlb : (latchSlot s).tlb = s.tlb := rfl
@[simp] theorem State.latchSlot_mem : (latchSlot s).mem = s.mem := rfl
@[simp] theorem State.latchSlot_dev : (latchSlot s).dev = s.dev := rfl
@[simp] theorem State.latchSlot_map : (latchSlot s).map = s.map := rfl
@[simp] theorem State.latchSlot_draws : (latchSlot s).draws = s.draws := rfl
end latchSlot

section preExecute
variable (s : State)
@[simp] theorem State.preExecute_gpr : (preExecute s).gpr = s.gpr := rfl
@[simp] theorem State.preExecute_pc : (preExecute s).pc = s.pc := rfl
@[simp] theorem State.preExecute_hi : (preExecute s).hi = s.hi := rfl
@[simp] theorem State.preExecute_lo : (preExecute s).lo = s.lo := rfl
@[simp] theorem State.preExecute_fcr0 : (preExecute s).fcr0 = s.fcr0 := rfl
@[simp] theorem State.preExecute_fcr31 : (preExecute s).fcr31 = s.fcr31 := rfl
@[simp] theorem State.preExecute_bd : (preExecute s).bd = s.bd := rfl
@[simp] theorem State.preExecute_cycles : (preExecute s).cycles = s.cycles := rfl
@[simp] theorem State.preExecute_tlb : (preExecute s).tlb = s.tlb := rfl
@[simp] theorem State.preExecute_mem : (preExecute s).mem = s.mem := rfl
@[simp] theorem State.preExecute_dev : (preExecute s).dev = s.dev := rfl
@[simp] theorem State.preExecute_map : (preExecute s).map = s.map := rfl
@[simp] theorem State.preExecute_draws : (preExecute s).draws = s.draws + 1 := rfl
end preExecute

section beginStep
variable (s : State)
@[simp] theorem State.beginStep_gpr : (beginStep s).gpr = s.gpr := rfl
@[simp] theorem State.beginStep_pc : (beginStep s).pc = s.pc := rfl
@[simp] theorem State.beginStep_hi : (beginStep s).hi = s.hi := rfl
@[simp] theorem State.beginStep_lo : (beginStep s).lo = s.lo := rfl
@[simp] theorem State.beginStep_fcr0 : (beginStep s).fcr0 = s.fcr0 := rfl
@[simp] theorem State.beginStep_fcr31 : (beginStep s).fcr31 = s.fcr31 := rfl
@[simp] theorem State.beginStep_bd : (beginStep s).bd = none := rfl
@[simp] theorem State.beginStep_cycles : (beginStep s).cycles = s.cycles := rfl
@[simp] theorem State.beginStep_tlb : (beginStep s).tlb = s.tlb := rfl
@[simp] theorem State.beginStep_mem : (beginStep s).mem = s.mem := rfl
@[simp] theorem State.beginStep_dev : (beginStep s).dev = s.dev := rfl
@[simp] theorem State.beginStep_map : (beginStep s).map = s.map := rfl
@[simp] theorem State.beginStep_draws : (beginStep s).draws = s.draws + 1 := rfl
end beginStep

section finishStep
variable (s : State) (slot : Option Dword)
@[simp] theorem State.finishStep_gpr : (finishStep slot s).gpr = s.gpr := rfl
@[simp] theorem State.finishStep_pc : (finishStep slot s).pc = slot.getD s.pc := rfl
@[simp] theorem State.finishStep_hi : (finishStep slot s).hi = s.hi := rfl
@[simp] theorem State.finishStep_lo : (finishStep slot s).lo = s.lo := rfl
@[simp] theorem State.finishStep_c0 : (finishStep slot s).c0 = s.c0 := rfl
@[simp] theorem State.finishStep_fcr0 : (finishStep slot s).fcr0 = s.fcr0 := rfl
@[simp] theorem State.finishStep_fcr31 : (finishStep slot s).fcr31 = s.fcr31 := rfl
@[simp] theorem State.finishStep_bd : (finishStep slot s).bd = s.bd := rfl
@[simp] theorem State.finishStep_cycles : (finishStep slot s).cycles = s.cycles + 1#64 := rfl
@[simp] theorem State.finishStep_tlb : (finishStep slot s).tlb = s.tlb := rfl
@[simp] theorem State.finishStep_mem : (finishStep slot s).mem = s.mem := rfl
@[simp] theorem State.finishStep_dev : (finishStep slot s).dev = s.dev := rfl
@[simp] theorem State.finishStep_map : (finishStep slot s).map = s.map := rfl
@[simp] theorem State.finishStep_draws : (finishStep slot s).draws = s.draws := rfl
end finishStep

/-! ### What the accessors read after a write -/

@[simp] theorem State.reg_zero (s : State) : s.reg 0#5 = 0#64 := by simp [State.reg]

theorem State.reg_of_ne {s : State} {r : Reg} (h : r ≠ 0#5) : s.reg r = s.gpr[r.toNat] := by simp [State.reg, h]

/-- `x[0]` is hardwired: a write to it changes nothing (10_state.md R22). -/
@[simp] theorem State.setReg_zero (s : State) (v : Dword) : s.setReg 0#5 v = s := by simp [State.setReg]

/-- A general register after a write to a general register. -/
theorem State.reg_setReg (s : State) (r q : Reg) (v : Dword) :
    (s.setReg r v).reg q = if q = 0#5 then 0#64 else if q = r then v else s.reg q := by
  by_cases hq : q = 0#5
  · simp [hq]
  · by_cases hr : r = 0#5
    · subst hr; simp [hq]
    · have key : r.toNat = q.toNat ↔ q = r := by
        constructor
        · intro h; exact (BitVec.eq_of_toNat_eq h).symm
        · rintro rfl; rfl
      simp [State.reg, State.setReg, hq, hr, Vector.getElem_set, key]

theorem State.reg_setReg_same (s : State) (r : Reg) (v : Dword) :
    (s.setReg r v).reg r = if r = 0#5 then 0#64 else v := by simp [State.reg_setReg]

theorem State.reg_setReg_ne (s : State) {r q : Reg} (v : Dword) (h : q ≠ r) : (s.setReg r v).reg q = s.reg q := by
  by_cases hq : q = 0#5
  · simp [hq]
  · simp [State.reg_setReg, hq, h]

/-- The registers read through the file alone. -/
theorem State.reg_congr {s t : State} (h : t.gpr = s.gpr) (r : Reg) : t.reg r = s.reg r := by simp [State.reg, h]

@[simp] theorem State.reg_setCop0 (s : State) (i r : Reg) (v : Dword) : (s.setCop0 i v).reg r = s.reg r := rfl
@[simp] theorem State.reg_setHiLo (s : State) (h l : Word) (r : Reg) : (s.setHiLo h l).reg r = s.reg r := rfl
@[simp] theorem State.reg_setHilo64 (s : State) (v : Dword) (r : Reg) : (s.setHilo64 v).reg r = s.reg r := rfl
@[simp] theorem State.reg_advance (s : State) (r : Reg) : s.advance.reg r = s.reg r := rfl
@[simp] theorem State.reg_beginStep (s : State) (r : Reg) : (beginStep s).reg r = s.reg r := rfl
@[simp] theorem State.reg_finishStep (s : State) (slot : Option Dword) (r : Reg) : (finishStep slot s).reg r = s.reg r := rfl

/-- A system-control register after a write to one. -/
theorem State.cop0_setCop0 (s : State) (i j : Reg) (v : Dword) :
    (s.setCop0 i v).cop0 j = if j = i then v else s.cop0 j := by
  have key : i.toNat = j.toNat ↔ j = i := by
    constructor
    · intro h; exact (BitVec.eq_of_toNat_eq h).symm
    · rintro rfl; rfl
  simp [State.cop0, State.setCop0, Vector.getElem_set, key]

theorem State.cop0_congr {s t : State} (h : t.c0 = s.c0) (i : Reg) : t.cop0 i = s.cop0 i := by simp [State.cop0, h]

@[simp] theorem State.cop0_setReg (s : State) (r i : Reg) (v : Dword) : (s.setReg r v).cop0 i = s.cop0 i :=
  State.cop0_congr (by simp) i
@[simp] theorem State.cop0_linkTo (s : State) (r i : Reg) : (s.linkTo r).cop0 i = s.cop0 i := State.cop0_setReg ..
@[simp] theorem State.cop0_setHiLo (s : State) (h l : Word) (i : Reg) : (s.setHiLo h l).cop0 i = s.cop0 i := rfl
@[simp] theorem State.cop0_setHilo64 (s : State) (v : Dword) (i : Reg) : (s.setHilo64 v).cop0 i = s.cop0 i := rfl
@[simp] theorem State.cop0_advance (s : State) (i : Reg) : s.advance.cop0 i = s.cop0 i := rfl
@[simp] theorem State.cop0_finishStep (s : State) (slot : Option Dword) (i : Reg) :
    (finishStep slot s).cop0 i = s.cop0 i := rfl

/-- Stage 2: Random is drawn, Count is incremented on odd cycles, no other register changes (40_step_engine.md R142). -/
theorem cop0_beginStep (s : State) (i : Reg) :
    (beginStep s).cop0 i = if i = 9#5 then countValue s else if i = 1#5 then randomValue s else s.cop0 i := by
  show ((((latchSlot s).setCop0 1#5 (randomValue s)) : State).setCop0 9#5 (countValue s)).cop0 i = _
  simp only [State.cop0_setCop0]
  rfl

/-- Random is below 64 (10_state.md R38). -/
theorem randomValue_lt (s : State) : (randomValue s).toNat < 64 := by
  have : (randomValue s).toNat ≤ (0x3F#64).toNat := by
    simp only [randomValue, BitVec.toNat_and]; exact Nat.and_le_right
  simpa using Nat.lt_succ_of_le this

end Sys2Proof.Machine
end

