-- ==== Sys2Proof/Laws/Bus.lean ====
section
/-! SUPPORT. Laws of the bus: where an access lands, what the access functions answer for plain storage, and, once for every
bus operation, all it can do to the state: change bytes of memory and of DEV, keeping both canonical, and nothing else. -/

namespace Sys2Proof.Machine

/-! ### What a bus operation can do to the state -/

/-- `t` is `s` but for bytes of memory and of DEV, and canonical where `s` was. -/
structure Kept (s t : State) : Prop where
  core : t = { s with mem := t.mem, dev := t.dev }
  mem : Memory.wf s.mem = true → Memory.wf t.mem = true
  dev : Memory.wf s.dev = true → Memory.wf t.dev = true

theorem Kept.refl (s : State) : Kept s s := ⟨rfl, id, id⟩

theorem Kept.trans {s t u : State} (h : Kept s t) (h' : Kept t u) : Kept s u := by
  refine ⟨?_, h'.mem ∘ h.mem, h'.dev ∘ h.dev⟩
  rw [h'.core, h.core]

section keptFields
variable {s t : State} (h : Kept s t)
include h
theorem Kept.gpr : t.gpr = s.gpr := by rw [h.core]
theorem Kept.pc : t.pc = s.pc := by rw [h.core]
theorem Kept.hi : t.hi = s.hi := by rw [h.core]
theorem Kept.lo : t.lo = s.lo := by rw [h.core]
theorem Kept.c0 : t.c0 = s.c0 := by rw [h.core]
theorem Kept.fcr0 : t.fcr0 = s.fcr0 := by rw [h.core]
theorem Kept.fcr31 : t.fcr31 = s.fcr31 := by rw [h.core]
theorem Kept.bd : t.bd = s.bd := by rw [h.core]
theorem Kept.cycles : t.cycles = s.cycles := by rw [h.core]
theorem Kept.tlb : t.tlb = s.tlb := by rw [h.core]
theorem Kept.map : t.map = s.map := by rw [h.core]
theorem Kept.draws : t.draws = s.draws := by rw [h.core]
theorem Kept.reg (r : Reg) : t.reg r = s.reg r := State.reg_congr h.gpr r
theorem Kept.cop0 (i : Reg) : t.cop0 i = s.cop0 i := State.cop0_congr h.c0 i
end keptFields

/-- A fault raised on the way from `s`: its record names the instruction at `pc` and the state the bus left. -/
def FaultKept (s : State) (f : Fault) : Prop :=
  f.context.pc = s.pc ∧ f.context.word = none ∧ f.context.slot = none ∧ Kept s f.context.after

theorem FaultKept.of_kept {s t : State} {f : Fault} (h : Kept s t) (hf : FaultKept t f) : FaultKept s f :=
  ⟨hf.1.trans h.pc, hf.2.1, hf.2.2.1, h.trans hf.2.2.2⟩

/-- The outcome keeps what `Kept` says: its state (by `st`) where it goes on, its record where it faults. -/
def Keeps {α : Type} (st : α → State) (s : State) (o : Host.Outcome α Fault Refusal) : Prop :=
  match o with
  | .next a => Kept s (st a)
  | .fault f => FaultKept s f
  | .refused _ => True

theorem Keeps.andThen {α β : Type} {st : α → State} {st' : β → State} {s : State} {o : Host.Outcome α Fault Refusal}
    {f : α → Host.Outcome β Fault Refusal} (ho : Keeps st s o) (hf : ∀ a, o = .next a → Keeps st' (st a) (f a)) :
    Keeps st' s (andThen o f) := by
  cases o with
  | next a =>
    have h1 := hf a rfl
    simp only [Keeps] at ho
    show Keeps st' s (f a)
    cases h2 : f a with
    | next b => rw [h2] at h1; exact ho.trans h1
    | fault e => rw [h2] at h1; exact FaultKept.of_kept ho h1
    | refused r => trivial
  | fault e => exact ho
  | refused r => trivial

theorem Keeps.raise {α : Type} (st : α → State) (s : State) (f : FaultContext → Fault)
    (hf : ∀ c, (f c).context = c) : Keeps st s (raise (α := α) s f) := by
  simp only [Keeps, Machine.raise, FaultKept, hf, State.context, true_and]
  exact Kept.refl s

@[simp] theorem andThen_next {α β : Type} (a : α) (f : α → Host.Outcome β Fault Refusal) :
    andThen (.next a) f = f a := rfl
@[simp] theorem andThen_fault {α β : Type} (e : Fault) (f : α → Host.Outcome β Fault Refusal) :
    andThen (.fault e) f = .fault e := rfl
@[simp] theorem andThen_refused {α β : Type} (r : Refusal) (f : α → Host.Outcome β Fault Refusal) :
    andThen (.refused r) f = .refused r := rfl

theorem andThen_assoc {α β γ : Type} (o : Host.Outcome α Fault Refusal) (f : α → Host.Outcome β Fault Refusal)
    (g : β → Host.Outcome γ Fault Refusal) : andThen (andThen o f) g = andThen o fun a => andThen (f a) g := by
  cases o <;> rfl

theorem kept_mem (s : State) (m : List Host.Cell) (h : Memory.wf s.mem = true → Memory.wf m = true) :
    Kept s { s with mem := m } := ⟨rfl, h, id⟩

theorem kept_dev (s : State) (d : List Host.Cell) (h : Memory.wf s.dev = true → Memory.wf d = true) :
    Kept s { s with dev := d } := ⟨rfl, id, h⟩

/-! ### Where an access lands -/

theorem route_eq (s : State) (a : Dword) (n : Nat) (k : AccessKind) :
    route s a n k =
      if (low32 a).toNat % n ≠ 0 then raise s (.misaligned (low32 a) n k)
      else match translate s (low32 a) with
        | none => raise s (.tlbMiss (low32 a) n k)
        | some pa => match lookup s.map pa with
          | none => raise s (.unmapped (low32 a) pa n k)
          | some m => .next (m, pa) := rfl

theorem route_next {s : State} {a : Dword} {n : Nat} {k : AccessKind} {m : Mapping} {pa : Word}
    (h1 : (low32 a).toNat % n = 0) (h2 : translate s (low32 a) = some pa) (h3 : lookup s.map pa = some m) :
    route s a n k = .next (m, pa) := by
  rw [route_eq, if_neg (by simpa using h1), h2]
  simp only [h3]

theorem route_keeps (s : State) (a : Dword) (n : Nat) (k : AccessKind) : Keeps (fun _ => s) s (route s a n k) := by
  rw [route_eq]
  split
  · exact Keeps.raise _ s _ fun _ => rfl
  · split
    · exact Keeps.raise _ s _ fun _ => rfl
    · split
      · exact Keeps.raise _ s _ fun _ => rfl
      · exact Kept.refl s

theorem lookup_contains {map : List Mapping} {pa : Word} {m : Mapping} (h : lookup map pa = some m) :
    m.lo ≤ pa.toNat ∧ pa.toNat < m.hi := by
  have := List.find?_some h
  simpa [Mapping.contains] using this

theorem lookup_mem {map : List Mapping} {pa : Word} {m : Mapping} (h : lookup map pa = some m) : m ∈ map :=
  List.mem_of_find?_eq_some h

theorem lookup_none {map : List Mapping} {pa : Word} :
    lookup map pa = none ↔ ∀ m ∈ map, ¬ (m.lo ≤ pa.toNat ∧ pa.toNat < m.hi) := by
  simp [lookup, List.find?_eq_none, Mapping.contains]

theorem translate_congr {s t : State} (h : t.tlb = s.tlb) (va : Word) : translate t va = translate s va := by
  simp only [translate, tlbLookup, h]

/-- All a successful routing says. -/
theorem of_route_next {s : State} {a : Dword} {n : Nat} {k : AccessKind} {r : Mapping × Word}
    (hr : route s a n k = .next r) :
    (low32 a).toNat % n = 0 ∧ translate s (low32 a) = some r.2 ∧ lookup s.map r.2 = some r.1 := by
  rw [route_eq] at hr
  split at hr
  · cases hr
  · split at hr
    · cases hr
    · split at hr
      · cases hr
      · rename_i h1 _ _ h3 _ _ h5
        cases hr
        exact ⟨by simpa using h1, h3, h5⟩

theorem route_congr {s t : State} (h : t.tlb = s.tlb) (h' : t.map = s.map) {a : Dword} {n : Nat} {k : AccessKind}
    {r : Mapping × Word} (hr : route s a n k = .next r) : route t a n k = .next r := by
  obtain ⟨h1, h2, h3⟩ := of_route_next hr
  exact route_next h1 ((translate_congr h _).trans h2) (h' ▸ h3)

/-! ### Every handler, access and copy keeps the state but for bytes -/

/-- What the outcome, if there is one, satisfies. -/
def IfReturns {α : Type} (P : Host.Outcome α Fault Refusal → Prop) (o : Option (Host.Outcome α Fault Refusal)) : Prop :=
  ∀ r, o = some r → P r

theorem IfReturns.some {α : Type} {P : Host.Outcome α Fault Refusal → Prop} {r : Host.Outcome α Fault Refusal} (h : P r) :
    IfReturns P (some r) := fun _ e => Option.some.inj e ▸ h

/-- A handler that keeps the state but for bytes. -/
def Handler.Keeps (h : Handler) : Prop :=
  ∀ (a : DeviceAccess) (s : State) (f : FaultContext → Fault), (∀ c, (f c).context = c) →
    IfReturns (Machine.Keeps Prod.snd s) (h a s f)

/-- An outcome that keeps a state the bus reached keeps the state it came from. -/
theorem Keeps.of_kept {α : Type} {st : α → State} {s t : State} {o : Host.Outcome α Fault Refusal} (h : Kept s t)
    (ho : Keeps st t o) : Keeps st s o := by
  cases o with
  | next a => exact h.trans ho
  | fault e => exact FaultKept.of_kept h ho
  | refused r => trivial

theorem Keeps.onReturn {α β : Type} {st : α → State} {st' : β → State} {s : State}
    {o : Option (Host.Outcome α Fault Refusal)} {f : α → Option (Host.Outcome β Fault Refusal)}
    (ho : IfReturns (Keeps st s) o) (hf : ∀ a, IfReturns (Keeps st' (st a)) (f a)) :
    IfReturns (Keeps st' s) (onReturn o f) := by
  intro r hr
  cases o with
  | none => exact absurd hr (by simp [Machine.onReturn])
  | some x =>
    have hx := ho x rfl
    cases x with
    | next a => exact Keeps.of_kept hx (hf a r hr)
    | fault e => cases hr; exact hx
    | refused e => cases hr; trivial

theorem kept_withLatches (s : State) (l : List Host.Cell) : Kept s (s.withLatches l) :=
  kept_dev s _ fun h => Memory.wf_writeCells _ h

theorem handleRead_keeps {h : Handler} (hh : h.Keeps) (s : State) (m : Mapping) (va pa : Word) (n : Nat)
    (k : AccessKind) : IfReturns (Keeps Prod.snd s) (handleRead h s m va pa n k) := by
  unfold handleRead
  dsimp only
  split
  · exact .some (Kept.refl s)
  · exact .some (Kept.refl s)
  · exact .some (Kept.refl s)
  · exact .some (Kept.refl s)
  · exact .some (Keeps.raise _ s _ fun _ => rfl)
  · split
    · exact .some (Kept.refl s)
    · exact .some (Kept.refl s)
    all_goals exact Keeps.onReturn (st := Prod.snd) (hh _ s _ fun _ => rfl) fun r => .some (Kept.refl r.2)

theorem handleWrite_keeps {h : Handler} (hh : h.Keeps) (s : State) (m : Mapping) (va pa : Word) (n : Nat)
    (v : Dword) : IfReturns (Keeps id s) (handleWrite h s m va pa n v) := by
  have h0 : Kept s { s with dev := Memory.writeBytes s.dev (m.lo + (pa.toNat - m.lo)) (beBytes n v) } :=
    kept_dev s _ fun h => Memory.wf_writeBytes _ h _
  unfold handleWrite
  dsimp only
  split
  · exact .some (kept_mem s _ fun h => Memory.wf_writeBytes _ h _)
  · exact .some (kept_mem s _ fun h => Memory.wf_writeBytes _ h _)
  · exact .some (Keeps.raise _ s _ fun _ => rfl)
  · exact .some (Kept.refl s)
  · exact .some (Keeps.raise _ s _ fun _ => rfl)
  · split
    · exact .some h0
    · exact .some h0
    · exact .some h0
    · exact .some (Kept.refl s)
    · exact Keeps.onReturn (st := Prod.snd) (hh _ s _ fun _ => rfl) fun r => .some (Kept.refl r.2)

theorem dmaWith_keeps {h : Handler} (hh : h.Keeps) (len : Nat) (src dst : Word) (s : State) :
    IfReturns (Keeps id s) (dmaWith h len src dst s) := by
  induction len generalizing src dst s with
  | zero => exact .some (Kept.refl s)
  | succ len ih =>
    refine Keeps.onReturn (st := Prod.snd)
      (Keeps.onReturn (.some (route_keeps s _ 1 .read)) fun r => handleRead_keeps hh s r.1 src r.2 1 .read) fun r => ?_
    exact Keeps.onReturn (st := id)
      (Keeps.onReturn (.some (route_keeps r.2 _ 1 .write)) fun q => handleWrite_keeps hh r.2 q.1 dst q.2 1 r.1)
      fun s' => ih _ _ s'

theorem deviceEnd_keeps (e : DeviceEnd) (s : State) (f : FaultContext → Fault) (hf : ∀ c, (f c).context = c) :
    Keeps Prod.snd s (deviceEnd e s f) := by
  refine Keeps.of_kept (kept_withLatches s e.latches) ?_
  unfold deviceEnd
  split
  · exact Keeps.raise _ _ _ hf
  · exact Kept.refl _

theorem runDevice_keeps {h : Handler} (hh : h.Keeps) (p : DeviceProgram) (s : State) (f : FaultContext → Fault)
    (hf : ∀ c, (f c).context = c) : IfReturns (Keeps Prod.snd s) (runDevice h p s f) := by
  induction p generalizing s with
  | finish e => exact .some (deviceEnd_keeps e s f hf)
  | copy latches c next ih =>
    intro r hr
    refine Keeps.of_kept (kept_withLatches s latches) ?_
    exact Keeps.onReturn (dmaWith_keeps hh c.len c.src c.dst _) (fun s' => ih _ s') r hr

/-- The handlers call themselves at the bytes of their copies (20_memory.md R91, R96). -/
theorem devices_eq (a : DeviceAccess) (s : State) (f : FaultContext → Fault) :
    devices a s f = runDevice devices (Config.device a s.dev) s f := devices.eq_1 a s f

/-- What every handler preserves that preserves it where its copies' handlers do, `DEVICES` preserves. -/
theorem devices_induct {P : DeviceAccess → State → (FaultContext → Fault) → Bus Dword → Prop}
    (hP : ∀ h : Handler, (∀ a s f, IfReturns (P a s f) (h a s f)) → ∀ a s f,
      IfReturns (P a s f) (runDevice h (Config.device a s.dev) s f)) (a : DeviceAccess) (s : State)
    (f : FaultContext → Fault) : IfReturns (P a s f) (devices a s f) :=
  devices.partial_correctness P hP a s f

theorem devices_keeps : Handler.Keeps devices := by
  intro a s f hf r hr
  exact devices_induct (P := fun _ s f r => (∀ c, (f c).context = c) → Keeps Prod.snd s r)
    (fun h hh a s f r hr hf => runDevice_keeps (fun a s f hf r hr => hh a s f r hr hf) _ s f hf r hr) a s f r hr hf

theorem returned_keeps {α : Type} {st : α → State} {s : State} {f : FaultContext → Fault} (hf : ∀ c, (f c).context = c)
    {o : Option (Host.Outcome α Fault Refusal)} (ho : IfReturns (Keeps st s) o) : Keeps st s (returned s f o) := by
  cases o with
  | none => exact Keeps.raise _ s f hf
  | some r => exact ho r rfl

theorem completeRead_keeps (s : State) (m : Mapping) (va pa : Word) (n : Nat) (k : AccessKind) :
    Keeps Prod.snd s (completeRead s m va pa n k) :=
  returned_keeps (fun _ => rfl) (handleRead_keeps devices_keeps s m va pa n k)

theorem writeHandled_keeps (s : State) (m : Mapping) (va pa : Word) (n : Nat) (v : Dword) :
    Keeps id s (writeHandled s m va pa n v) :=
  returned_keeps (fun _ => rfl) (handleWrite_keeps devices_keeps s m va pa n v)

theorem memRead_keeps (s : State) (a : Dword) (n : Nat) (k : AccessKind) : Keeps Prod.snd s (memRead s a n k) :=
  Keeps.andThen (route_keeps s a n k) fun r _ => completeRead_keeps s r.1 _ _ n k

theorem dma_keeps (s : State) (src dst : Word) (len : Nat) : Keeps id s (dma s src dst len) := by
  induction len generalizing s src dst with
  | zero => exact Kept.refl s
  | succ len ih =>
    refine Keeps.andThen (memRead_keeps s _ 1 .read) fun r _ => ?_
    refine Keeps.andThen (route_keeps r.2 _ 1 .write) fun q _ => ?_
    exact Keeps.andThen (writeHandled_keeps r.2 q.1 _ _ 1 r.1) fun s' _ => ih s' _ _

theorem completeWrite_keeps (s : State) (m : Mapping) (va pa : Word) (n : Nat) (v : Dword) :
    Keeps id s (completeWrite s m va pa n v) := by
  refine Keeps.andThen (writeHandled_keeps s m va pa n v) fun s' _ => ?_
  split
  · exact Kept.refl s'
  · exact dma_keeps s' _ _ _

theorem memWrite_keeps (s : State) (a : Dword) (n : Nat) (v : Dword) : Keeps id s (memWrite s a n v) :=
  Keeps.andThen (route_keeps s a n .write) fun r _ => completeWrite_keeps s r.1 _ _ n v

/-! ### A copy is reads and writes of single bytes -/

theorem regAt_byte (regs : List DeviceReg) (o : Nat) : regAt regs o 1 = none := rfl

theorem startedCopy_byte (s : State) (m : Mapping) (pa : Word) (v : Dword) : startedCopy s m pa 1 v = none := by
  unfold startedCopy
  simp only [regAt_byte]
  split <;> rfl

/-- A byte write starts no copy of its own. -/
theorem memWrite_width_one (s : State) (a : Dword) (v : Dword) :
    memWrite s a 1 v = andThen (route s a 1 .write) fun r => writeHandled s r.1 (low32 a) r.2 1 v := by
  unfold memWrite completeWrite
  congr 1
  funext r
  simp only [startedCopy_byte]
  cases writeHandled s r.1 (low32 a) r.2 1 v <;> rfl

theorem low32_setWidth (a : Word) : low32 (a.setWidth 64) = a := by
  simp [low32]

/-- `Dma`, byte by byte (20_memory.md R96). -/
theorem dma_succ (s : State) (src dst : Word) (len : Nat) :
    dma s src dst (len + 1) =
      andThen (memRead s (src.setWidth 64) 1 .read) fun r =>
        andThen (memWrite r.2 (dst.setWidth 64) 1 r.1) fun s' => dma s' (src + 1#32) (dst + 1#32) len := by
  simp only [memWrite_width_one, andThen_assoc, low32_setWidth]; rfl

/-- A byte that a handler's copy reads is `MemRead`'s. -/
theorem memRead_of_readByteWith {s : State} {a : Word} {o : Bus Dword} (h : readByteWith devices s a = some o) :
    memRead s (a.setWidth 64) 1 .read = o := by
  unfold readByteWith at h
  unfold memRead completeRead returned
  rw [low32_setWidth]
  cases hr : route s (a.setWidth 64) 1 .read with
  | next r => rw [hr] at h; simp only [onReturn] at h; simp only [andThen_next, h, Option.getD_some]
  | fault e => rw [hr] at h; cases h; rfl
  | refused e => rw [hr] at h; cases h; rfl

/-- A byte that a handler's copy writes is `MemWrite`'s. -/
theorem memWrite_of_writeByteWith {s : State} {a : Word} {v : Dword} {o : Outcome}
    (h : writeByteWith devices s a v = some o) : memWrite s (a.setWidth 64) 1 v = o := by
  unfold writeByteWith at h
  rw [memWrite_width_one, low32_setWidth]
  unfold writeHandled returned
  cases hr : route s (a.setWidth 64) 1 .write with
  | next r => rw [hr] at h; simp only [onReturn] at h; simp only [andThen_next, h, Option.getD_some]
  | fault e => rw [hr] at h; cases h; rfl
  | refused e => rw [hr] at h; cases h; rfl

/-- The copy that a handler calls is the same `Dma` (20_memory.md R91, R96). -/
theorem dma_of_dmaWith {len : Nat} {src dst : Word} {s : State} {o : Outcome} (h : dmaWith devices len src dst s = some o) :
    dma s src dst len = o := by
  induction len generalizing src dst s with
  | zero => exact Option.some.inj h
  | succ len ih =>
    rw [dma_succ]
    unfold dmaWith at h
    cases h1 : readByteWith devices s src with
    | none => rw [h1] at h; cases h
    | some x =>
      rw [memRead_of_readByteWith h1]
      rw [h1] at h
      cases x with
      | fault e => cases h; rfl
      | refused e => cases h; rfl
      | next r =>
        simp only [onReturn] at h
        simp only [andThen_next]
        cases h2 : writeByteWith devices r.2 dst r.1 with
        | none => rw [h2] at h; cases h
        | some y =>
          rw [memWrite_of_writeByteWith h2]
          rw [h2] at h
          cases y with
          | fault e => cases h; rfl
          | refused e => cases h; rfl
          | next s' => exact ih h

theorem readEach_keeps (s : State) (as : List Word) : Keeps Prod.snd s (readEach s as) := by
  induction as generalizing s with
  | nil => exact Kept.refl s
  | cons a as ih =>
    refine Keeps.andThen (memRead_keeps s _ 1 .read) fun r _ => ?_
    exact Keeps.andThen (ih r.2) fun q _ => Kept.refl q.2

theorem writeEach_keeps (s : State) (l : List (Word × Byte)) : Keeps id s (writeEach s l) := by
  induction l generalizing s with
  | nil => exact Kept.refl s
  | cons p l ih =>
    obtain ⟨a, b⟩ := p
    exact Keeps.andThen (memWrite_keeps s _ 1 _) fun s' _ => ih s'

/-! ### Plain storage: no handler of DEVICES is involved -/

/-- A mapping that is no window with registers of its own. -/
def isPlain (m : Mapping) : Bool :=
  match m.kind with
  | .device _ _ => false
  | .ram | .bootRam | .rom _ | .openBus | .faultTrap => true

/-- A read that lands in RAM or boot RAM. -/
theorem memRead_ram {s : State} {a : Dword} {n : Nat} {k : AccessKind} {m : Mapping} {pa : Word}
    (h1 : (low32 a).toNat % n = 0) (h2 : translate s (low32 a) = some pa) (h3 : lookup s.map pa = some m)
    (hk : m.kind = .ram ∨ m.kind = .bootRam) :
    memRead s a n k = .next (beValue (Memory.readBytes s.mem pa.toNat n), s) := by
  have h4 := (lookup_contains h3).1
  have h5 : m.lo + (pa.toNat - m.lo) = pa.toNat := by omega
  unfold memRead completeRead returned
  rw [route_next h1 h2 h3]
  rcases hk with hk | hk <;> simp only [andThen_next, handleRead, hk, h5, Option.getD_some]

/-- A write that lands in RAM or boot RAM. -/
theorem memWrite_ram {s : State} {a : Dword} {n : Nat} {m : Mapping} {pa : Word} (v : Dword)
    (h1 : (low32 a).toNat % n = 0) (h2 : translate s (low32 a) = some pa) (h3 : lookup s.map pa = some m)
    (hk : m.kind = .ram ∨ m.kind = .bootRam) :
    memWrite s a n v = .next { s with mem := Memory.writeBytes s.mem pa.toNat (beBytes n v) } := by
  have h4 := (lookup_contains h3).1
  have h5 : m.lo + (pa.toNat - m.lo) = pa.toNat := by omega
  unfold memWrite completeWrite writeHandled returned
  rw [route_next h1 h2 h3]
  rcases hk with hk | hk <;> simp only [andThen_next, handleWrite, startedCopy, hk, h5, Option.getD_some]

/-- An access that lands in a mapping is its handler's. -/
theorem memRead_handled {s : State} {a : Dword} {n : Nat} {k : AccessKind} {m : Mapping} {pa : Word}
    (h1 : (low32 a).toNat % n = 0) (h2 : translate s (low32 a) = some pa) (h3 : lookup s.map pa = some m) :
    memRead s a n k = completeRead s m (low32 a) pa n k := by
  unfold memRead; rw [route_next h1 h2 h3]; rfl

theorem memWrite_handled {s : State} {a : Dword} {n : Nat} {m : Mapping} {pa : Word} (v : Dword)
    (h1 : (low32 a).toNat % n = 0) (h2 : translate s (low32 a) = some pa) (h3 : lookup s.map pa = some m) :
    memWrite s a n v = completeWrite s m (low32 a) pa n v := by
  unfold memWrite; rw [route_next h1 h2 h3]; rfl

theorem romBytes_length (image : List Byte) (o n : Nat) : (romBytes image o n).length = n := by
  induction n generalizing o with
  | zero => rfl
  | succ n ih => simp [romBytes, ih]

theorem romBytes_getElem? (image : List Byte) (o n i : Nat) (h : i < n) :
    (romBytes image o n)[i]? = some (romByte image (o + i)) := by
  induction n generalizing o i with
  | zero => omega
  | succ n ih =>
    cases i with
    | zero => rfl
    | succ i => simp only [romBytes, List.getElem?_cons_succ]; rw [ih (o + 1) i (by omega)]; congr 2; omega

/-! ### The bus never refuses (20_memory.md R100, R101: a value or a fault) -/

theorem andThen_not_refused {α β : Type} {o : Host.Outcome α Fault Refusal} {f : α → Host.Outcome β Fault Refusal}
    {r : Refusal} (ho : o ≠ .refused r) (hf : ∀ a, f a ≠ .refused r) : andThen o f ≠ .refused r := by
  cases o with
  | next a => exact hf a
  | fault e => simp
  | refused r' => simpa using ho

theorem next_ne_refused {α : Type} (a : α) (r : Refusal) : (Host.Outcome.next a : Host.Outcome α Fault Refusal) ≠ .refused r := by
  simp

theorem raise_not_refused {α : Type} (s : State) (f : FaultContext → Fault) (r : Refusal) :
    raise (α := α) s f ≠ .refused r := by
  simp [raise]

theorem route_not_refused (s : State) (a : Dword) (n : Nat) (k : AccessKind) (r : Refusal) : route s a n k ≠ .refused r := by
  rw [route_eq]
  split
  · exact raise_not_refused _ _ r
  · split
    · exact raise_not_refused _ _ r
    · split
      · exact raise_not_refused _ _ r
      · exact next_ne_refused _ r

theorem onReturn_not_refused {α β : Type} {o : Option (Host.Outcome α Fault Refusal)}
    {f : α → Option (Host.Outcome β Fault Refusal)} {r : Refusal} (ho : IfReturns (· ≠ .refused r) o)
    (hf : ∀ a, IfReturns (· ≠ .refused r) (f a)) : IfReturns (· ≠ .refused r) (onReturn o f) := by
  intro q hq
  cases o with
  | none => exact absurd hq (by simp [onReturn])
  | some x =>
    cases x with
    | next a => exact hf a q hq
    | fault e => cases hq; simp
    | refused e => cases hq; simpa using ho _ rfl

/-- A handler that never refuses as the model does. -/
def Handler.NeverRefuses (h : Handler) : Prop := ∀ a s f r, IfReturns (· ≠ .refused r) (h a s f)

theorem handleRead_not_refused {h : Handler} (hh : h.NeverRefuses) (s : State) (m : Mapping) (va pa : Word) (n : Nat)
    (k : AccessKind) (r : Refusal) : IfReturns (· ≠ .refused r) (handleRead h s m va pa n k) := by
  unfold handleRead
  dsimp only
  split
  · exact .some (next_ne_refused _ r)
  · exact .some (next_ne_refused _ r)
  · exact .some (next_ne_refused _ r)
  · exact .some (next_ne_refused _ r)
  · exact .some (raise_not_refused _ _ r)
  · split
    · exact .some (next_ne_refused _ r)
    · exact .some (next_ne_refused _ r)
    all_goals exact onReturn_not_refused (hh _ _ _ r) fun _ => .some (next_ne_refused _ r)

theorem handleWrite_not_refused {h : Handler} (hh : h.NeverRefuses) (s : State) (m : Mapping) (va pa : Word) (n : Nat)
    (v : Dword) (r : Refusal) : IfReturns (· ≠ .refused r) (handleWrite h s m va pa n v) := by
  unfold handleWrite
  dsimp only
  split
  · exact .some (next_ne_refused _ r)
  · exact .some (next_ne_refused _ r)
  · exact .some (raise_not_refused _ _ r)
  · exact .some (next_ne_refused _ r)
  · exact .some (raise_not_refused _ _ r)
  · split
    · exact .some (next_ne_refused _ r)
    · exact .some (next_ne_refused _ r)
    · exact .some (next_ne_refused _ r)
    · exact .some (next_ne_refused _ r)
    · exact onReturn_not_refused (hh _ _ _ r) fun _ => .some (next_ne_refused _ r)

theorem dmaWith_not_refused {h : Handler} (hh : h.NeverRefuses) (len : Nat) (src dst : Word) (s : State) (r : Refusal) :
    IfReturns (· ≠ .refused r) (dmaWith h len src dst s) := by
  induction len generalizing src dst s with
  | zero => exact .some (next_ne_refused s r)
  | succ len ih =>
    refine onReturn_not_refused
      (onReturn_not_refused (.some (route_not_refused _ _ _ _ r)) fun _ => handleRead_not_refused hh _ _ _ _ _ _ r) fun q => ?_
    exact onReturn_not_refused
      (onReturn_not_refused (.some (route_not_refused _ _ _ _ r)) fun _ => handleWrite_not_refused hh _ _ _ _ _ _ r)
      fun s' => ih _ _ s'

theorem runDevice_not_refused {h : Handler} (hh : h.NeverRefuses) (p : DeviceProgram) (s : State)
    (f : FaultContext → Fault) (r : Refusal) : IfReturns (· ≠ .refused r) (runDevice h p s f) := by
  induction p generalizing s with
  | finish e =>
    refine .some ?_
    unfold deviceEnd
    split
    · exact raise_not_refused _ _ r
    · exact next_ne_refused _ r
  | copy latches c next ih => exact onReturn_not_refused (dmaWith_not_refused hh _ _ _ _ r) fun s' => ih _ s'

theorem devices_never_refuse : Handler.NeverRefuses devices := by
  intro a s f r q hq
  exact devices_induct (P := fun _ _ _ q => ∀ r, q ≠ .refused r)
    (fun h hh a s f q hq r => runDevice_not_refused (fun a s f r q hq => hh a s f q hq r) _ s f r q hq) a s f q hq r

theorem returned_not_refused {α : Type} {s : State} {f : FaultContext → Fault} {r : Refusal}
    {o : Option (Host.Outcome α Fault Refusal)} (ho : IfReturns (· ≠ .refused r) o) : returned s f o ≠ .refused r := by
  cases o with
  | none => exact raise_not_refused s f r
  | some x => exact ho x rfl

theorem memRead_not_refused (s : State) (a : Dword) (n : Nat) (k : AccessKind) (r : Refusal) :
    memRead s a n k ≠ .refused r :=
  andThen_not_refused (route_not_refused s a n k r) fun _ =>
    returned_not_refused (handleRead_not_refused devices_never_refuse _ _ _ _ _ _ r)

theorem writeHandled_not_refused (s : State) (m : Mapping) (va pa : Word) (n : Nat) (v : Dword) (r : Refusal) :
    writeHandled s m va pa n v ≠ .refused r :=
  returned_not_refused (handleWrite_not_refused devices_never_refuse _ _ _ _ _ _ r)

theorem dma_not_refused (s : State) (src dst : Word) (len : Nat) (r : Refusal) : dma s src dst len ≠ .refused r := by
  induction len generalizing s src dst with
  | zero => exact next_ne_refused s r
  | succ len ih =>
    refine andThen_not_refused (memRead_not_refused s _ 1 .read r) fun q => ?_
    refine andThen_not_refused (route_not_refused _ _ _ _ r) fun p => ?_
    exact andThen_not_refused (writeHandled_not_refused _ _ _ _ _ _ r) fun s' => ih s' _ _

theorem memWrite_not_refused (s : State) (a : Dword) (n : Nat) (v : Dword) (r : Refusal) :
    memWrite s a n v ≠ .refused r := by
  refine andThen_not_refused (route_not_refused s a n .write r) fun q => ?_
  refine andThen_not_refused (writeHandled_not_refused s _ _ _ n v r) fun s' => ?_
  split
  · exact next_ne_refused s' r
  · exact dma_not_refused s' _ _ _ r

end Sys2Proof.Machine
end

