-- ==== Sys2Proof/Laws/Block.lean ====
section
/-! SUPPORT. An aligned block of 8 bytes has one translation and, in a well-formed MAP, one mapping (20_memory.md R84,
47_unaligned_load_store.md R320); what the byte accesses of a partial-word instruction then do. -/

namespace Sys2Proof.Machine

/-! ### Bits and blocks -/

theorem div8_of_bits {x y : Word} (h : ∀ i, 3 ≤ i → x.getLsbD i = y.getLsbD i) : x.toNat / 8 = y.toNat / 8 := by
  apply Nat.eq_of_testBit_eq
  intro i
  rw [show (8 : Nat) = 2 ^ 3 from rfl, Nat.testBit_div_two_pow, Nat.testBit_div_two_pow]
  exact h (i + 3) (by omega)

theorem mod8_of_bits {x y : Word} (h : ∀ i < 3, x.getLsbD i = y.getLsbD i) : x.toNat % 8 = y.toNat % 8 := by
  apply Nat.eq_of_testBit_eq
  intro i
  rw [show (8 : Nat) = 2 ^ 3 from rfl, Nat.testBit_mod_two_pow, Nat.testBit_mod_two_pow]
  by_cases hi : i < 3
  · simp only [hi, decide_true, Bool.true_and]; exact h i hi
  · simp [hi]

theorem bits_of_div8 {x y : Word} (h : x.toNat / 8 = y.toNat / 8) (i : Nat) (hi : 3 ≤ i) :
    x.getLsbD i = y.getLsbD i := by
  have := congrArg (fun n => n.testBit (i - 3)) h
  simp only [show (8 : Nat) = 2 ^ 3 from rfl, Nat.testBit_div_two_pow] at this
  rwa [show i - 3 + 3 = i by omega] at this

/-- `pa`'s block, at the offset of `va` in its own. -/
def relocate (pa va : Word) : Word := BitVec.ofNat 32 (pa.toNat / 8 * 8 + va.toNat % 8)

theorem relocate_toNat (pa va : Word) : (relocate pa va).toNat = pa.toNat / 8 * 8 + va.toNat % 8 := by
  have := pa.isLt
  simp only [relocate, BitVec.toNat_ofNat]
  omega

theorem eq_relocate {x pa va : Word} (h1 : x.toNat / 8 = pa.toNat / 8) (h2 : x.toNat % 8 = va.toNat % 8) :
    x = relocate pa va := by
  apply BitVec.eq_of_toNat_eq
  rw [relocate_toNat]
  omega

/-! ### Translation of a block -/

theorem pageSize_toNat (mask : BitVec 12) :
    ((mask.setWidth 32 + 1#32) <<< 12).toNat = (mask.toNat + 1) * 4096 := by
  have := mask.isLt
  simp only [BitVec.toNat_shiftLeft, BitVec.toNat_add, BitVec.toNat_setWidth, BitVec.toNat_ofNat, Nat.shiftLeft_eq]
  omega

theorem pageOffset_bit (mask : BitVec 12) (i : Nat) (hi : i < 3) :
    ((mask.setWidth 32 + 1#32) <<< 12 - 1#32).getLsbD i = true := by
  have hm := mask.isLt
  have h1 := pageSize_toNat mask
  have h2 : ((mask.setWidth 32 + 1#32) <<< 12 - 1#32).toNat = (mask.toNat + 1) * 4096 - 1 := by
    rw [BitVec.toNat_sub, h1]; simp; omega
  rw [BitVec.getLsbD, h2, Nat.testBit_eq_decide_div_mod_eq]
  have : i = 0 ∨ i = 1 ∨ i = 2 := by omega
  rcases this with rfl | rfl | rfl <;> simp <;> omega

/-- One entry translates the bytes of a block alike. -/
theorem hit_block (e : TlbEntry) {va va' : Word} (h : va'.toNat / 8 = va.toNat / 8) :
    e.hit va' = (e.hit va).map fun pa => relocate pa va' := by
  have h1 : va'.extractLsb' 13 19 = va.extractLsb' 13 19 := by
    apply BitVec.eq_of_toNat_eq
    simp only [BitVec.extractLsb'_toNat, Nat.shiftRight_eq_div_pow]
    have h3 : va'.toNat / 2 ^ 13 = va.toNat / 2 ^ 13 := by omega
    rw [h3]
  have h2 : va' &&& ((e.mask.setWidth 32 + 1#32) <<< 12) = va &&& ((e.mask.setWidth 32 + 1#32) <<< 12) := by
    apply BitVec.eq_of_getLsbD_eq
    intro i hi
    simp only [BitVec.getLsbD_and, BitVec.getLsbD_shiftLeft]
    by_cases h3 : i < 12
    · simp [h3]
    · rw [bits_of_div8 h i (by omega)]
  unfold TlbEntry.hit
  dsimp only
  rw [h1, h2]
  split
  · generalize (if va &&& ((e.mask.setWidth 32 + 1#32) <<< 12) ≠ 0#32 then (e.pfn1, e.v1) else (e.pfn0, e.v0)) = half
    split
    · simp only [Option.map_some, Option.some.injEq]
      apply eq_relocate
      · apply div8_of_bits
        intro i hi
        simp only [BitVec.getLsbD_or, BitVec.getLsbD_and, bits_of_div8 h i hi]
      · apply mod8_of_bits
        intro i hi
        have := pageOffset_bit e.mask i hi
        simp only [BitVec.getLsbD_or, BitVec.getLsbD_and, BitVec.getLsbD_not, this]
        simp
    · rfl
  · rfl

theorem tlbLookup_block (s : State) {va va' : Word} (h : va'.toNat / 8 = va.toNat / 8) :
    tlbLookup s va' = (tlbLookup s va).map fun pa => relocate pa va' := by
  unfold tlbLookup
  induction s.tlb.toList with
  | nil => rfl
  | cons e es ih =>
    simp only [List.findSome?_cons, hit_block e h]
    cases e.hit va with
    | none => simpa using ih
    | some pa => rfl

/-- The bytes of an aligned block of 8 have one translation. -/
theorem translate_block (s : State) {va va' : Word} (h : va'.toNat / 8 = va.toNat / 8) :
    translate s va' = (translate s va).map fun pa => relocate pa va' := by
  have hv := va.isLt
  have hv' := va'.isLt
  have e0 : va' < Config.kseg0Base ↔ va < Config.kseg0Base := by
    simp only [BitVec.lt_def, Config.kseg0Base, BitVec.toNat_ofNat]; omega
  have e1 : va' < Config.kseg1Base ↔ va < Config.kseg1Base := by
    simp only [BitVec.lt_def, Config.kseg1Base, BitVec.toNat_ofNat]; omega
  have e2 : va' < Config.kssegBase ↔ va < Config.kssegBase := by
    simp only [BitVec.lt_def, Config.kssegBase, BitVec.toNat_ofNat]; omega
  unfold translate
  simp only [e0, e1, e2]
  split
  · exact tlbLookup_block s h
  · rename_i h0
    simp only [BitVec.lt_def, Config.kseg0Base, BitVec.toNat_ofNat] at h0
    split
    · simp only [Option.map_some, Option.some.injEq]
      apply eq_relocate <;> simp only [BitVec.toNat_sub, Config.kseg0Base, BitVec.toNat_ofNat] <;> omega
    · rename_i h1
      simp only [BitVec.lt_def, Config.kseg1Base, BitVec.toNat_ofNat] at h1
      split
      · simp only [Option.map_some, Option.some.injEq]
        apply eq_relocate <;> simp only [BitVec.toNat_sub, Config.kseg1Base, BitVec.toNat_ofNat] <;> omega
      · exact tlbLookup_block s h

/-- A translated address keeps its offset in the block. -/
theorem translate_mod8 {s : State} {va pa : Word} (h : translate s va = some pa) : pa.toNat % 8 = va.toNat % 8 := by
  have h1 := translate_block s (va := va) (va' := va) rfl
  rw [h] at h1
  have h2 : pa = relocate pa va := by simpa using h1
  have h3 := relocate_toNat pa va
  rw [← h2] at h3
  omega

theorem translate_in_block {s : State} {va va' pa : Word} (h : translate s va = some pa)
    (hb : va'.toNat / 8 = va.toNat / 8) : translate s va' = some (relocate pa va') := by
  rw [translate_block s hb, h]; rfl

/-! ### The mapping of a block -/

theorem Mapping.wf_bounds {m : Mapping} (h : m.wf = true) : m.lo < m.hi ∧ m.hi ≤ 2 ^ 32 ∧ m.lo % 8 = 0 ∧ m.hi % 8 = 0 := by
  simpa [Sys2Proof.Mapping.wf, and_assoc] using h

/-- The bytes of an aligned block of 8 lie in one mapping. -/
theorem lookup_block {map : List Mapping} (hwf : mapWf map = true) {pa pa' : Word} (h : pa'.toNat / 8 = pa.toNat / 8) :
    lookup map pa' = lookup map pa := by
  unfold lookup
  simp only [mapWf, List.all_eq_true] at hwf
  induction map with
  | nil => rfl
  | cons m ms ih =>
    have hm := Mapping.wf_bounds (hwf m (by simp))
    have hc : Mapping.contains m pa' = Mapping.contains m pa := by
      simp only [Mapping.contains]
      congr 1 <;> apply decide_eq_decide.mpr <;> omega
    simp only [List.find?_cons, hc, ih fun x hx => hwf x (List.mem_cons_of_mem _ hx)]

/-! ### Byte accesses in a block of plain storage -/

/-- The byte a read of plain storage gives at a physical address. -/
def storageByte (s : State) (m : Mapping) (a : Nat) : Byte :=
  match m.kind with
  | .ram | .bootRam => Memory.read s.mem a
  | .rom image => romByte image (a - m.lo)
  | .openBus | .faultTrap | .device _ _ => Config.openBusFill

/-- Reads of these mappings succeed and have no side effect (20_memory.md R68). -/
def readsPlainly (m : Mapping) : Bool :=
  match m.kind with
  | .ram | .bootRam | .rom _ | .openBus => true
  | .faultTrap | .device _ _ => false

theorem memRead_byte {s : State} {a pa : Word} {m : Mapping} {k : AccessKind} (h2 : translate s a = some pa)
    (h3 : lookup s.map pa = some m) (hm : readsPlainly m = true) :
    memRead s (a.setWidth 64) 1 k = .next ((storageByte s m pa.toNat).setWidth 64, s) := by
  have h4 := (lookup_contains h3).1
  have h5 : m.lo + (pa.toNat - m.lo) = pa.toNat := by omega
  rw [memRead_handled (by simp [Nat.mod_one]) (by rw [low32_setWidth]; exact h2) h3]
  obtain ⟨kind, tag, lo, hi⟩ := m
  simp only at h5
  cases kind <;>
    first
    | exact Bool.noConfusion (show false = true from hm)
    | simp [completeRead, returned, handleRead, storageByte, Memory.readBytes, beValue, romBytes, h5]

/-- Bytes of plain storage in one block, read one by one. -/
theorem readEach_block {s : State} {va pa : Word} {m : Mapping} (hwf : mapWf s.map = true)
    (h2 : translate s va = some pa) (h3 : lookup s.map pa = some m) (hm : readsPlainly m = true) (as : List Word)
    (has : ∀ a ∈ as, a.toNat / 8 = va.toNat / 8) :
    readEach s as = .next (as.map fun a => storageByte s m (relocate pa a).toNat, s) := by
  induction as with
  | nil => rfl
  | cons a as ih =>
    have ha := has a (by simp)
    have hl : lookup s.map (relocate pa a) = some m := by
      rw [lookup_block hwf (pa := pa) (by rw [relocate_toNat]; omega)]; exact h3
    rw [readEach, memRead_byte (translate_in_block h2 ha) hl hm, andThen_next]
    simp only
    rw [ih fun x hx => has x (List.mem_cons_of_mem _ hx)]
    simp

theorem memWrite_byte {s : State} {a pa : Word} {m : Mapping} (b : Byte) (h2 : translate s a = some pa)
    (h3 : lookup s.map pa = some m) (hm : m.kind = .ram ∨ m.kind = .bootRam) :
    memWrite s (a.setWidth 64) 1 (b.setWidth 64) = .next { s with mem := Memory.write s.mem pa.toNat b } := by
  rw [memWrite_ram _ (by simp [Nat.mod_one]) (by rw [low32_setWidth]; exact h2) h3 hm]
  simp [beBytes, Memory.writeBytes]

/-- Bytes written one by one to ascending addresses of one block of RAM. -/
theorem writeEach_block {s : State} {va pa a : Word} {m : Mapping} (hwf : mapWf s.map = true)
    (h2 : translate s va = some pa) (h3 : lookup s.map pa = some m) (hm : m.kind = .ram ∨ m.kind = .bootRam)
    (bs : List Byte) (n : Nat) (hn : bs.length ≤ n) (ha : a.toNat / 8 = va.toNat / 8)
    (hend : a.toNat % 8 + bs.length ≤ 8) :
    writeEach s ((addrsFrom a n).zip bs) =
      .next { s with mem := Memory.writeBytes s.mem (relocate pa a).toNat bs } := by
  induction bs generalizing s a n with
  | nil => simp [writeEach, Memory.writeBytes]
  | cons b bs ih =>
    cases n with
    | zero => simp at hn
    | succ n =>
      simp only [List.length_cons] at hn hend
      have hl : lookup s.map (relocate pa a) = some m := by
        rw [lookup_block hwf (pa := pa) (by rw [relocate_toNat]; omega)]; exact h3
      simp only [addrsFrom, List.zip_cons_cons, writeEach]
      rw [memWrite_byte b (translate_in_block h2 ha) hl hm, andThen_next]
      cases bs with
      | nil => simp [writeEach, Memory.writeBytes]
      | cons c cs =>
        simp only [List.length_cons] at hn hend
        have hav := a.isLt
        have h1 : (a + 1#32).toNat = a.toNat + 1 := by
          simp only [BitVec.toNat_add, BitVec.toNat_ofNat]; omega
        have := ih (s := { s with mem := Memory.write s.mem (relocate pa a).toNat b }) (a := a + 1#32) hwf h2 h3 n
          (by simp; omega) (by omega) (by simp; omega)
        rw [this]
        simp only [Memory.writeBytes]
        have h4 : (relocate pa (a + 1#32)).toNat = (relocate pa a).toNat + 1 := by
          rw [relocate_toNat, relocate_toNat]; omega
        rw [h4]

/-! ### The addresses a partial-word instruction covers -/

theorem addrsFrom_eq (a : Word) (n : Nat) : addrsFrom a n = (List.range n).map fun k => a + BitVec.ofNat 32 k := by
  induction n generalizing a with
  | zero => rfl
  | succ n ih =>
    rw [addrsFrom, ih, List.range_succ_eq_map]
    simp only [List.map_cons, List.map_map, BitVec.add_zero, List.cons.injEq, true_and]
    apply List.map_congr_left
    intro k _
    simp only [Function.comp]
    apply BitVec.eq_of_toNat_eq
    simp only [BitVec.toNat_add, BitVec.toNat_ofNat]
    omega

@[simp] theorem addrsFrom_length (a : Word) (n : Nat) : (addrsFrom a n).length = n := by simp [addrsFrom_eq]

theorem addrsFrom_block {a va : Word} {n : Nat} (h : a.toNat / 8 = va.toNat / 8) (hn : a.toNat % 8 + n ≤ 8) :
    ∀ x ∈ addrsFrom a n, x.toNat / 8 = va.toNat / 8 := by
  intro x hx
  rw [addrsFrom_eq] at hx
  obtain ⟨k, hk, rfl⟩ := List.mem_map.mp hx
  have hk := List.mem_range.mp hk
  have := a.isLt
  simp only [BitVec.toNat_add, BitVec.toNat_ofNat]
  omega

theorem addrsFrom_relocate {a pa : Word} {n : Nat} (hn : a.toNat % 8 + n ≤ 8) (f : Nat → Byte) :
    (addrsFrom a n).map (fun x => f (relocate pa x).toNat) = (List.range n).map fun k => f ((relocate pa a).toNat + k) := by
  rw [addrsFrom_eq, List.map_map]
  apply List.map_congr_left
  intro k hk
  have hk := List.mem_range.mp hk
  have := a.isLt
  simp only [Function.comp, relocate_toNat, BitVec.toNat_add, BitVec.toNat_ofNat]
  congr 1
  omega

theorem relocate_self {s : State} {va pa : Word} (h : translate s va = some pa) : relocate pa va = pa := by
  apply BitVec.eq_of_toNat_eq
  have := translate_mod8 h
  rw [relocate_toNat]
  omega

theorem blockBase_toNat {va : Word} {size : Nat} (hs : size = 4 ∨ size = 8) :
    (blockBase va size).toNat = va.toNat - va.toNat % size := by
  have := va.isLt
  have : va.toNat % size ≤ va.toNat := Nat.mod_le _ _
  rcases hs with rfl | rfl <;>
    · simp only [blockBase, blockPos, BitVec.toNat_sub, BitVec.toNat_ofNat]
      omega

/-- The bytes a left load reads from plain storage. -/
theorem readEach_left {s : State} {va pa : Word} {m : Mapping} {size : Nat} (hs : size = 4 ∨ size = 8)
    (hwf : mapWf s.map = true) (h2 : translate s va = some pa) (h3 : lookup s.map pa = some m)
    (hm : readsPlainly m = true) : readEach s (leftAddrs va size) =
      .next ((List.range (size - va.toNat % size)).map fun k => storageByte s m (pa.toNat + k), s) := by
  have hb : va.toNat % 8 + (size - va.toNat % size) ≤ 8 := by rcases hs with rfl | rfl <;> omega
  unfold leftAddrs
  rw [show blockPos va size = va.toNat % size from rfl, readEach_block hwf h2 h3 hm _ (addrsFrom_block rfl hb), addrsFrom_relocate hb (storageByte s m), relocate_self h2]

/-- The bytes a right load reads from plain storage. -/
theorem readEach_right {s : State} {va pa : Word} {m : Mapping} {size : Nat} (hs : size = 4 ∨ size = 8)
    (hwf : mapWf s.map = true) (h2 : translate s va = some pa) (h3 : lookup s.map pa = some m)
    (hm : readsPlainly m = true) : readEach s (rightAddrs va size) =
      .next ((List.range (va.toNat % size + 1)).map fun k => storageByte s m (pa.toNat - va.toNat % size + k), s) := by
  have hbase := blockBase_toNat (va := va) hs
  have hmod := translate_mod8 h2
  have hb : (blockBase va size).toNat % 8 + (va.toNat % size + 1) ≤ 8 := by rcases hs with rfl | rfl <;> omega
  have hd : (blockBase va size).toNat / 8 = va.toNat / 8 := by rcases hs with rfl | rfl <;> omega
  unfold rightAddrs
  rw [show blockPos va size = va.toNat % size from rfl, readEach_block hwf h2 h3 hm _ (addrsFrom_block hd hb),
    addrsFrom_relocate hb (storageByte s m)]
  have : (relocate pa (blockBase va size)).toNat = pa.toNat - va.toNat % size := by
    rw [relocate_toNat]
    rcases hs with rfl | rfl <;> omega
  rw [this]

theorem zip_take_length {α β : Type} (l : List α) (l' : List β) : l.zip (l'.take l.length) = l.zip l' := by
  induction l generalizing l' with
  | nil => simp
  | cons a l ih => cases l' <;> simp [ih]

/-- The bytes a left store writes to RAM. -/
theorem writeEach_left {s : State} {va pa : Word} {m : Mapping} {size : Nat} (hs : size = 4 ∨ size = 8)
    (hwf : mapWf s.map = true) (h2 : translate s va = some pa) (h3 : lookup s.map pa = some m)
    (hm : m.kind = .ram ∨ m.kind = .bootRam) (v : Dword) :
    writeEach s ((leftAddrs va size).zip (beBytes size v)) =
      .next { s with mem := Memory.writeBytes s.mem pa.toNat ((beBytes size v).take (size - va.toNat % size)) } := by
  have hlen : ((beBytes size v).take (size - va.toNat % size)).length = size - va.toNat % size := by
    rw [List.length_take, beBytes_length]; omega
  have hz : (leftAddrs va size).zip (beBytes size v) =
      (leftAddrs va size).zip ((beBytes size v).take (size - va.toNat % size)) := by
    have : (leftAddrs va size).length = size - va.toNat % size := by simp [leftAddrs, blockPos]
    rw [← this]
    exact (zip_take_length (leftAddrs va size) (beBytes size v)).symm
  rw [hz]
  unfold leftAddrs
  rw [show blockPos va size = va.toNat % size from rfl, writeEach_block hwf h2 h3 hm _ _ (by rw [hlen]) rfl
    (by rw [hlen]; rcases hs with rfl | rfl <;> omega), relocate_self h2]

/-- The bytes a right store writes to RAM. -/
theorem writeEach_right {s : State} {va pa : Word} {m : Mapping} {size : Nat} (hs : size = 4 ∨ size = 8)
    (hwf : mapWf s.map = true) (h2 : translate s va = some pa) (h3 : lookup s.map pa = some m)
    (hm : m.kind = .ram ∨ m.kind = .bootRam) (v : Dword) :
    writeEach s ((rightAddrs va size).zip ((beBytes size v).drop (size - 1 - blockPos va size))) =
      .next { s with mem :=
        Memory.writeBytes s.mem (pa.toNat - va.toNat % size) ((beBytes size v).drop (size - 1 - va.toNat % size)) } := by
  have hbase := blockBase_toNat (va := va) hs
  have hmod := translate_mod8 h2
  have hlen : ((beBytes size v).drop (size - 1 - va.toNat % size)).length = va.toNat % size + 1 := by
    rw [List.length_drop, beBytes_length]
    rcases hs with rfl | rfl <;> omega
  unfold rightAddrs
  rw [show blockPos va size = va.toNat % size from rfl,
    writeEach_block hwf h2 h3 hm _ _ (by rw [hlen]) (by rcases hs with rfl | rfl <;> omega)
      (by rw [hlen]; rcases hs with rfl | rfl <;> omega)]
  have : (relocate pa (blockBase va size)).toNat = pa.toNat - va.toNat % size := by
    rw [relocate_toNat]
    rcases hs with rfl | rfl <;> omega
  rw [this]

/-! ### Faults where MAP has no device windows -/

/-- A plain read changes nothing, faulting or not. -/
theorem memRead_plain {s : State} (h : ∀ m ∈ s.map, isPlain m = true) (a : Dword) (n : Nat) (k : AccessKind) :
    (∀ v t, memRead s a n k = .next (v, t) → t = s) ∧ (∀ f, memRead s a n k = .fault f → f.context.after = s) := by
  unfold memRead completeRead returned
  cases hr : route s a n k with
  | next q =>
    have hm := h _ (lookup_mem (of_route_next hr).2.2)
    obtain ⟨⟨kind, tag, lo, hi⟩, pa⟩ := q
    cases kind <;>
      first
      | exact Bool.noConfusion (show false = true from hm)
      | (simp only [andThen_next, handleRead, raise, Option.getD_some]
         refine ⟨fun v t ht => ?_, fun f hf => ?_⟩
         · first | (cases ht; rfl) | cases ht
         · first | (cases hf; rfl) | cases hf)
  | fault e =>
    have he : e.context.after = s := by
      rw [route_eq] at hr
      split at hr
      · cases hr; rfl
      · split at hr
        · cases hr; rfl
        · split at hr
          · cases hr; rfl
          · cases hr
    refine ⟨fun v t ht => by simp at ht, fun f hf => ?_⟩
    simp only [andThen_fault, Host.Outcome.fault.injEq] at hf
    rw [← hf]; exact he
  | refused r => exact ⟨fun v t ht => by simp at ht, fun f hf => by simp at hf⟩

/-- A plain write that faults changes nothing; one that succeeds changes no latch. -/
theorem memWrite_plain {s : State} (h : ∀ m ∈ s.map, isPlain m = true) (a : Dword) (n : Nat) (v : Dword) :
    (∀ t, memWrite s a n v = .next t → t.dev = s.dev) ∧ (∀ f, memWrite s a n v = .fault f → f.context.after = s) := by
  unfold memWrite completeWrite writeHandled returned
  cases hr : route s a n .write with
  | next q =>
    have hm := h _ (lookup_mem (of_route_next hr).2.2)
    obtain ⟨⟨kind, tag, lo, hi⟩, pa⟩ := q
    cases kind <;>
      first
      | exact Bool.noConfusion (show false = true from hm)
      | (simp only [andThen_next, handleWrite, startedCopy, raise, andThen_fault, Option.getD_some]
         refine ⟨fun t ht => ?_, fun f hf => ?_⟩
         · first | (cases ht; rfl) | cases ht
         · first | (cases hf; rfl) | cases hf)
  | fault e =>
    have he : e.context.after = s := by
      rw [route_eq] at hr
      split at hr
      · cases hr; rfl
      · split at hr
        · cases hr; rfl
        · split at hr
          · cases hr; rfl
          · cases hr
    refine ⟨fun t ht => by simp at ht, fun f hf => ?_⟩
    simp only [andThen_fault, Host.Outcome.fault.injEq] at hf
    rw [← hf]; exact he
  | refused r => exact ⟨fun t ht => by simp at ht, fun f hf => by simp at hf⟩

theorem readEach_plain {s : State} (h : ∀ m ∈ s.map, isPlain m = true) (as : List Word) :
    (∀ v t, readEach s as = .next (v, t) → t = s) ∧ (∀ f, readEach s as = .fault f → f.context.after = s) := by
  induction as with
  | nil =>
    refine ⟨fun v t ht => ?_, fun f hf => by simp [readEach] at hf⟩
    simp only [readEach, Host.Outcome.next.injEq, Prod.mk.injEq] at ht
    exact ht.2.symm
  | cons a as ih =>
    have h1 := memRead_plain h (a.setWidth 64) 1 .read
    unfold readEach
    cases hr : memRead s (a.setWidth 64) 1 .read with
    | next q =>
      obtain ⟨v, t⟩ := q
      obtain rfl := h1.1 v t hr
      simp only [andThen_next]
      cases h2 : readEach t as with
      | next p =>
        obtain ⟨u, t'⟩ := p
        refine ⟨fun v' t'' ht => ?_, fun f hf => by simp at hf⟩
        simp only [andThen_next, Host.Outcome.next.injEq, Prod.mk.injEq] at ht
        rw [← ht.2]
        exact ih.1 u t' h2
      | fault e =>
        refine ⟨fun v' t'' ht => by simp at ht, fun f hf => ?_⟩
        simp only [andThen_fault, Host.Outcome.fault.injEq] at hf
        rw [← hf]
        exact ih.2 e h2
      | refused r => exact ⟨fun v' t'' ht => by simp at ht, fun f hf => by simp at hf⟩
    | fault e =>
      refine ⟨fun v' t'' ht => by simp at ht, fun f hf => ?_⟩
      simp only [andThen_fault, Host.Outcome.fault.injEq] at hf
      rw [← hf]
      exact h1.2 e hr
    | refused r => exact ⟨fun v' t'' ht => by simp at ht, fun f hf => by simp at hf⟩

/-- Once a byte of a block is written, every other byte of the block can be: no later byte faults. -/
theorem writeEach_block_next {s : State} {va pa : Word} {m : Mapping} (hwf : mapWf s.map = true)
    (h2 : translate s va = some pa) (h3 : lookup s.map pa = some m)
    (hm : m.kind = .ram ∨ m.kind = .bootRam ∨ m.kind = .openBus) (l : List (Word × Byte))
    (hl : ∀ p ∈ l, p.1.toNat / 8 = va.toNat / 8) : ∃ t, writeEach s l = .next t := by
  induction l generalizing s with
  | nil => exact ⟨s, rfl⟩
  | cons p l ih =>
    obtain ⟨a, b⟩ := p
    have ha : a.toNat / 8 = va.toNat / 8 := hl (a, b) (by simp)
    have h4 : lookup s.map (relocate pa a) = some m := by
      rw [lookup_block hwf (pa := pa) (by rw [relocate_toNat]; omega)]; exact h3
    have h5 := translate_in_block h2 ha
    have h6 : ∀ p ∈ l, p.1.toNat / 8 = va.toNat / 8 := fun p hp => hl p (List.mem_cons_of_mem _ hp)
    unfold writeEach
    rw [memWrite_handled _ (by simp [Nat.mod_one]) (by rw [low32_setWidth]; exact h5) h4]
    rcases hm with hm | hm | hm
    · simp only [completeWrite, writeHandled, returned, handleWrite, startedCopy, hm, andThen_next, Option.getD_some]
      exact ih hwf h2 h3 h6
    · simp only [completeWrite, writeHandled, returned, handleWrite, startedCopy, hm, andThen_next, Option.getD_some]
      exact ih hwf h2 h3 h6
    · simp only [completeWrite, writeHandled, returned, handleWrite, startedCopy, hm, andThen_next, Option.getD_some]
      exact ih hwf h2 h3 h6

/-- The byte writes of one block of plain storage fault only at the first byte, before anything is written
(47_unaligned_load_store.md R320). -/
theorem writeEach_plain_fault {s : State} (h : ∀ m ∈ s.map, isPlain m = true) (hwf : mapWf s.map = true) {va : Word}
    (l : List (Word × Byte)) (hl : ∀ p ∈ l, p.1.toNat / 8 = va.toNat / 8) {f : Fault}
    (hf : writeEach s l = .fault f) : f.context.after = s := by
  cases l with
  | nil => simp [writeEach] at hf
  | cons p l =>
    obtain ⟨a, b⟩ := p
    have ha : a.toNat / 8 = va.toNat / 8 := hl (a, b) (by simp)
    have h1 := memWrite_plain h (a.setWidth 64) 1 (b.setWidth 64)
    unfold writeEach at hf
    cases hr : memWrite s (a.setWidth 64) 1 (b.setWidth 64) with
    | fault e =>
      rw [hr] at hf
      simp only [andThen_fault, Host.Outcome.fault.injEq] at hf
      rw [← hf]
      exact h1.2 e hr
    | refused r => rw [hr] at hf; simp at hf
    | next t =>
      exfalso
      rw [hr, andThen_next] at hf
      have hk := memWrite_keeps s (a.setWidth 64) 1 (b.setWidth 64)
      rw [hr] at hk
      have hk : Kept s t := hk
      unfold memWrite completeWrite writeHandled returned at hr
      cases hq : route s (a.setWidth 64) 1 .write with
      | fault e => rw [hq] at hr; simp at hr
      | refused r => rw [hq] at hr; simp at hr
      | next q =>
        rw [hq, andThen_next] at hr
        obtain ⟨_, h2, h3⟩ := of_route_next hq
        have hp := h _ (lookup_mem h3)
        have hm : q.1.kind = .ram ∨ q.1.kind = .bootRam ∨ q.1.kind = .openBus := by
          obtain ⟨⟨kind, tag, lo, hi⟩, pa⟩ := q
          cases kind <;>
            first
            | exact Bool.noConfusion (show false = true from hp)
            | (simp [handleWrite, raise] at hr; done)
            | simp
        rw [low32_setWidth] at h2
        obtain ⟨u, hu⟩ := writeEach_block_next (s := t) (va := a) (pa := q.2) (m := q.1) (by rw [hk.map]; exact hwf)
          (by rw [translate_congr hk.tlb]; exact h2) (by rw [hk.map]; exact h3) hm l
          (fun p hp => (hl p (List.mem_cons_of_mem _ hp)).trans ha.symm)
        rw [hu] at hf
        cases hf

end Sys2Proof.Machine
end

