-- ==== Sys2Proof/Laws/Decode.lean ====
section
/-! SUPPORT. Laws of the instruction table: which rows overlap (30_encoding.md R117), what a matching row decodes to (R116),
and what the fields of an encoded word are (R111, R112). -/

namespace Sys2Proof

/-! ### The order of the table (30_encoding.md R117) -/

/-- No word matches both rows: their masks share a bit on which the expected bits differ. -/
def Descriptor.conflicts (d e : Descriptor) : Bool := (d.mask &&& e.mask) &&& (d.expected ^^^ e.expected) != 0#32

/-- Every word of the first row is a word of the second. -/
def Descriptor.specialises (d e : Descriptor) : Bool :=
  e.mask &&& d.mask == e.mask && d.expected &&& e.mask == e.expected

/-- The rows after the three aliases. -/
def tableGeneral : List Descriptor :=
  tableShifts ++ tableSpecial ++ tableRegister ++ tableBranch ++ tableImmediate ++ tableCop ++ tableLikely ++ tableMemory

theorem table_eq : table = tableAliases ++ tableGeneral := by simp [table, tableGeneral]

theorem table_length : table.length = 107 := by decide

theorem tableAliases_conflict : tableAliases.Pairwise fun d e => d.conflicts e = true := by decide

theorem tableGeneral_conflict : tableGeneral.Pairwise fun d e => d.conflicts e = true := by decide +kernel

/-- Two rows that conflict share no word. -/
theorem Descriptor.not_both {d e : Descriptor} (h : d.conflicts e = true) {w : Word} (hd : d.matches w = true) :
    e.matches w = false := by
  simp only [Descriptor.conflicts, bne_iff_ne, ne_eq] at h
  simp only [Descriptor.matches, beq_iff_eq] at hd
  simp only [Descriptor.matches, beq_eq_false_iff_ne, ne_eq]
  intro he
  apply h
  rw [← hd, ← he]
  ext i hi
  simp only [BitVec.getElem_and, BitVec.getElem_xor, BitVec.getElem_zero]
  cases w[i] <;> cases d.mask[i] <;> cases e.mask[i] <;> rfl

/-- A row found in a list whose rows share no word. -/
theorem find?_of_conflict {l : List Descriptor} (h : l.Pairwise fun d e => d.conflicts e = true) {d : Descriptor}
    (hd : d ∈ l) {w : Word} (hm : d.matches w = true) : (l.find? fun d => d.matches w) = some d := by
  induction l with
  | nil => cases hd
  | cons e l ih =>
    rw [List.pairwise_cons] at h
    rcases List.mem_cons.mp hd with rfl | hd
    · simp [hm]
    · have : e.matches w = false := by
        by_contra hc
        rw [Bool.not_eq_false] at hc
        rw [Descriptor.not_both (h.1 d hd) hc] at hm
        cases hm
      simp only [List.find?_cons, this]
      exact ih h.2 hd

/-- An alias row decodes every word it matches. -/
theorem decodeWord_of_alias {d : Descriptor} (hd : d ∈ tableAliases) {w : Word} (hm : d.matches w = true) :
    decodeWord w = some (d.build w) := by
  rw [decodeWord, table_eq, List.find?_append, find?_of_conflict tableAliases_conflict hd hm]
  rfl

/-- A general row decodes every word it matches that no alias matches (30_encoding.md R116, R117). -/
theorem decodeWord_of_general {d : Descriptor} (hd : d ∈ tableGeneral) {w : Word} (hm : d.matches w = true)
    (ha : ∀ a ∈ tableAliases, a.matches w = false) : decodeWord w = some (d.build w) := by
  have h1 : (tableAliases.find? fun d => d.matches w) = none := List.find?_eq_none.mpr fun a h => by simp [ha a h]
  rw [decodeWord, table_eq, List.find?_append, h1, find?_of_conflict tableGeneral_conflict hd hm]
  rfl

/-- A general row that conflicts with the three aliases decodes every word it matches. -/
theorem decodeWord_of_row {d : Descriptor} (hd : d ∈ tableGeneral) (hc : ∀ a ∈ tableAliases, d.conflicts a = true)
    {w : Word} (hm : d.matches w = true) : decodeWord w = some (d.build w) :=
  decodeWord_of_general hd hm fun a ha => Descriptor.not_both (hc a ha) hm

/-- What decodes matches a row that builds it. -/
theorem row_of_decodeWord {w : Word} {i : Instr} (h : decodeWord w = some i) :
    ∃ d ∈ table, d.matches w = true ∧ d.build w = i := by
  simp only [decodeWord, Option.map_eq_some_iff] at h
  obtain ⟨d, hd, hb⟩ := h
  exact ⟨d, List.mem_of_find?_eq_some hd, by simpa using List.find?_some hd, hb⟩

/-- A word that matches no row does not decode (30_encoding.md R124). -/
theorem decodeWord_none {w : Word} (h : ∀ d ∈ table, d.matches w = false) : decodeWord w = none := by
  simp only [decodeWord, Option.map_eq_none_iff, List.find?_eq_none]
  intro d hd
  simp [h d hd]

/-! ### Fields of an encoded word (30_encoding.md R111, R112) -/

section fieldsR
variable (op : BitVec 6) (rs rt rd sa : BitVec 5) (fn : BitVec 6)

theorem encodeR_toNat : (encodeR op rs rt rd sa fn).toNat =
    op.toNat * 2 ^ 26 + rs.toNat * 2 ^ 21 + rt.toNat * 2 ^ 16 + rd.toNat * 2 ^ 11 + sa.toNat * 2 ^ 6 + fn.toNat := by
  have := op.isLt; have := rs.isLt; have := rt.isLt; have := rd.isLt; have := sa.isLt; have := fn.isLt
  simp only [encodeR, BitVec.toNat_append]
  rw [← Nat.shiftLeft_add_eq_or_of_lt (by omega), ← Nat.shiftLeft_add_eq_or_of_lt (by omega),
    ← Nat.shiftLeft_add_eq_or_of_lt (by omega), ← Nat.shiftLeft_add_eq_or_of_lt (by omega),
    ← Nat.shiftLeft_add_eq_or_of_lt (by omega)]
  simp only [Nat.shiftLeft_eq]
  omega

@[simp] theorem fieldOpcode_encodeR : fieldOpcode (encodeR op rs rt rd sa fn) = op := by
  apply BitVec.eq_of_toNat_eq
  have := op.isLt; have := rs.isLt; have := rt.isLt; have := rd.isLt; have := sa.isLt; have := fn.isLt
  simp only [fieldOpcode, BitVec.extractLsb'_toNat, encodeR_toNat, Nat.shiftRight_eq_div_pow]
  omega

@[simp] theorem fieldRs_encodeR : fieldRs (encodeR op rs rt rd sa fn) = rs := by
  apply BitVec.eq_of_toNat_eq
  have := op.isLt; have := rs.isLt; have := rt.isLt; have := rd.isLt; have := sa.isLt; have := fn.isLt
  simp only [fieldRs, BitVec.extractLsb'_toNat, encodeR_toNat, Nat.shiftRight_eq_div_pow]
  omega

@[simp] theorem fieldRt_encodeR : fieldRt (encodeR op rs rt rd sa fn) = rt := by
  apply BitVec.eq_of_toNat_eq
  have := op.isLt; have := rs.isLt; have := rt.isLt; have := rd.isLt; have := sa.isLt; have := fn.isLt
  simp only [fieldRt, BitVec.extractLsb'_toNat, encodeR_toNat, Nat.shiftRight_eq_div_pow]
  omega

@[simp] theorem fieldRd_encodeR : fieldRd (encodeR op rs rt rd sa fn) = rd := by
  apply BitVec.eq_of_toNat_eq
  have := op.isLt; have := rs.isLt; have := rt.isLt; have := rd.isLt; have := sa.isLt; have := fn.isLt
  simp only [fieldRd, BitVec.extractLsb'_toNat, encodeR_toNat, Nat.shiftRight_eq_div_pow]
  omega

@[simp] theorem fieldSa_encodeR : fieldSa (encodeR op rs rt rd sa fn) = sa := by
  apply BitVec.eq_of_toNat_eq
  have := op.isLt; have := rs.isLt; have := rt.isLt; have := rd.isLt; have := sa.isLt; have := fn.isLt
  simp only [fieldSa, BitVec.extractLsb'_toNat, encodeR_toNat, Nat.shiftRight_eq_div_pow]
  omega

@[simp] theorem fieldFunct_encodeR : fieldFunct (encodeR op rs rt rd sa fn) = fn := by
  apply BitVec.eq_of_toNat_eq
  have := op.isLt; have := rs.isLt; have := rt.isLt; have := rd.isLt; have := sa.isLt; have := fn.isLt
  simp only [fieldFunct, BitVec.extractLsb'_toNat, encodeR_toNat, Nat.shiftRight_eq_div_pow]
  omega
end fieldsR

section fieldsI
variable (op : BitVec 6) (rs rt : BitVec 5) (imm : BitVec 16)

theorem encodeI_toNat : (encodeI op rs rt imm).toNat =
    op.toNat * 2 ^ 26 + rs.toNat * 2 ^ 21 + rt.toNat * 2 ^ 16 + imm.toNat := by
  have := op.isLt; have := rs.isLt; have := rt.isLt; have := imm.isLt
  simp only [encodeI, BitVec.toNat_append]
  rw [← Nat.shiftLeft_add_eq_or_of_lt (by omega), ← Nat.shiftLeft_add_eq_or_of_lt (by omega),
    ← Nat.shiftLeft_add_eq_or_of_lt (by omega)]
  simp only [Nat.shiftLeft_eq]
  omega

@[simp] theorem fieldOpcode_encodeI : fieldOpcode (encodeI op rs rt imm) = op := by
  apply BitVec.eq_of_toNat_eq
  have := op.isLt; have := rs.isLt; have := rt.isLt; have := imm.isLt
  simp only [fieldOpcode, BitVec.extractLsb'_toNat, encodeI_toNat, Nat.shiftRight_eq_div_pow]
  omega

@[simp] theorem fieldRs_encodeI : fieldRs (encodeI op rs rt imm) = rs := by
  apply BitVec.eq_of_toNat_eq
  have := op.isLt; have := rs.isLt; have := rt.isLt; have := imm.isLt
  simp only [fieldRs, BitVec.extractLsb'_toNat, encodeI_toNat, Nat.shiftRight_eq_div_pow]
  omega

@[simp] theorem fieldRt_encodeI : fieldRt (encodeI op rs rt imm) = rt := by
  apply BitVec.eq_of_toNat_eq
  have := op.isLt; have := rs.isLt; have := rt.isLt; have := imm.isLt
  simp only [fieldRt, BitVec.extractLsb'_toNat, encodeI_toNat, Nat.shiftRight_eq_div_pow]
  omega

@[simp] theorem fieldImm_encodeI : fieldImm (encodeI op rs rt imm) = imm := by
  apply BitVec.eq_of_toNat_eq
  have := op.isLt; have := rs.isLt; have := rt.isLt; have := imm.isLt
  simp only [fieldImm, BitVec.extractLsb'_toNat, encodeI_toNat, Nat.shiftRight_eq_div_pow]
  omega
end fieldsI

theorem encodeJ_toNat (op : BitVec 6) (target : BitVec 26) :
    (encodeJ op target).toNat = op.toNat * 2 ^ 26 + target.toNat := by
  have := op.isLt; have := target.isLt
  simp only [encodeJ, BitVec.toNat_append]
  rw [← Nat.shiftLeft_add_eq_or_of_lt (by omega), Nat.shiftLeft_eq]

@[simp] theorem fieldTarget_encodeJ (op : BitVec 6) (target : BitVec 26) : fieldTarget (encodeJ op target) = target := by
  apply BitVec.eq_of_toNat_eq
  have := op.isLt; have := target.isLt
  simp only [fieldTarget, BitVec.extractLsb'_toNat, encodeJ_toNat, Nat.shiftRight_eq_div_pow]
  omega

theorem encodeCode_toNat (op : BitVec 6) (code : BitVec 20) (fn : BitVec 6) :
    (encodeCode op code fn).toNat = op.toNat * 2 ^ 26 + code.toNat * 2 ^ 6 + fn.toNat := by
  have := op.isLt; have := code.isLt; have := fn.isLt
  simp only [encodeCode, BitVec.toNat_append]
  rw [← Nat.shiftLeft_add_eq_or_of_lt (by omega), ← Nat.shiftLeft_add_eq_or_of_lt (by omega)]
  simp only [Nat.shiftLeft_eq]
  omega

@[simp] theorem fieldCode_encodeCode (op : BitVec 6) (code : BitVec 20) (fn : BitVec 6) :
    fieldCode (encodeCode op code fn) = code := by
  apply BitVec.eq_of_toNat_eq
  have := op.isLt; have := code.isLt; have := fn.isLt
  simp only [fieldCode, BitVec.extractLsb'_toNat, encodeCode_toNat, Nat.shiftRight_eq_div_pow]
  omega

/-! ### A mask cuts a word field by field -/

theorem and_append2 {n m : Nat} (a a' : BitVec n) (b b' : BitVec m) : (a ++ b) &&& (a' ++ b') = (a &&& a') ++ (b &&& b') :=
  BitVec.and_append

theorem and_append3 {n m k : Nat} (a a' : BitVec n) (b b' : BitVec m) (c c' : BitVec k) :
    (a ++ b ++ c) &&& (a' ++ b' ++ c') = (a &&& a') ++ (b &&& b') ++ (c &&& c') := by
  rw [BitVec.and_append, BitVec.and_append]

theorem and_append4 {n m k l : Nat} (a a' : BitVec n) (b b' : BitVec m) (c c' : BitVec k) (d d' : BitVec l) :
    (a ++ b ++ c ++ d) &&& (a' ++ b' ++ c' ++ d') = (a &&& a') ++ (b &&& b') ++ (c &&& c') ++ (d &&& d') := by
  rw [BitVec.and_append, and_append3]

theorem encodeR_and (op op' : BitVec 6) (rs rs' rt rt' rd rd' sa sa' : BitVec 5) (fn fn' : BitVec 6) :
    encodeR op rs rt rd sa fn &&& encodeR op' rs' rt' rd' sa' fn' =
      encodeR (op &&& op') (rs &&& rs') (rt &&& rt') (rd &&& rd') (sa &&& sa') (fn &&& fn') :=
  (and_append3 (op ++ rs ++ rt ++ rd) (op' ++ rs' ++ rt' ++ rd') sa sa' fn fn').trans (by
    rw [and_append4]; rfl)

theorem encodeI_and (op op' : BitVec 6) (rs rs' rt rt' : BitVec 5) (imm imm' : BitVec 16) :
    encodeI op rs rt imm &&& encodeI op' rs' rt' imm' =
      encodeI (op &&& op') (rs &&& rs') (rt &&& rt') (imm &&& imm') := and_append4 ..

theorem encodeJ_and (op op' : BitVec 6) (t t' : BitVec 26) :
    encodeJ op t &&& encodeJ op' t' = encodeJ (op &&& op') (t &&& t') := and_append2 ..

theorem encodeCode_and (op op' : BitVec 6) (c c' : BitVec 20) (fn fn' : BitVec 6) :
    encodeCode op c fn &&& encodeCode op' c' fn' = encodeCode (op &&& op') (c &&& c') (fn &&& fn') := and_append3 ..

end Sys2Proof
end

