-- ==== Sys2Proof/Laws/Exec.lean ====
section
/-! SUPPORT. Once for every way an instruction ends: all it can do (`Ran` where it completes, `FaultKept` where it faults),
and then for every instruction of the table (`exec_runsTo`). -/

namespace Sys2Proof.Machine

/-- All an instruction that completes can have done, whichever it is. -/
structure Ran (i : Instr) (s t : State) : Prop where
  fcr0 : t.fcr0 = s.fcr0
  fcr31 : t.fcr31 = s.fcr31
  cycles : t.cycles = s.cycles
  tlb : t.tlb = s.tlb
  map : t.map = s.map
  draws : t.draws = s.draws
  inert : ∀ j : Reg, j ∉ Config.cop0Writable → t.cop0 j = s.cop0 j
  count : (∀ rt : Reg, i ≠ .mtc0 rt 9#5 ∧ i ≠ .dmtc0 rt 9#5) → t.cop0 9#5 = s.cop0 9#5
  zero : s.gpr[0] = 0#64 → t.gpr[0] = 0#64
  mem : Memory.wf s.mem = true → Memory.wf t.mem = true
  dev : Memory.wf s.dev = true → Memory.wf t.dev = true
  normal : i.kind = .normal → t.pc = s.pc + 4#64 ∧ t.bd = s.bd
  control : i.kind = .control → (t.pc = s.pc + 4#64 ∧ ∃ target, t.bd = some target) ∨ (t.pc = s.pc + 8#64 ∧ t.bd = s.bd)
  supported : i.kind ≠ .unsupported

/-- The outcome of an instruction: what `Ran` says where it completes, what `FaultKept` says where it faults. -/
def RunsTo (i : Instr) (s : State) (o : Outcome) : Prop :=
  match o with
  | .next t => Ran i s t
  | .fault f => FaultKept s f
  | .refused _ => True

/-! ### The shared endings -/

theorem State.setReg_zeroCell (s : State) (r : Reg) (v : Dword) (h : s.gpr[0] = 0#64) : (s.setReg r v).gpr[0] = 0#64 := by
  unfold State.setReg
  split
  · exact h
  · rename_i hr
    have : r.toNat ≠ 0 := fun h0 => hr (BitVec.eq_of_toNat_eq (by simpa using h0))
    simp [this, h]

/-- Write a register after a bus operation, and go on. -/
theorem runsTo_writeReg {i : Instr} {s s' : State} (h : Kept s s') (hk : i.kind = .normal) (r : Reg) (v : Dword) :
    RunsTo i s (writeReg s' r v) := by
  refine ⟨?_, ?_, ?_, ?_, ?_, ?_, ?_, ?_, ?_, ?_, ?_, ?_, ?_, ?_⟩
  · simp [h.fcr0]
  · simp [h.fcr31]
  · simp [h.cycles]
  · simp [h.tlb]
  · simp [h.map]
  · simp [h.draws]
  · intro j _; simp [h.cop0]
  · intro _; simp [h.cop0]
  · intro hz; exact State.setReg_zeroCell s' r v (by rw [h.gpr]; exact hz)
  · intro hm; simpa using h.mem hm
  · intro hm; simpa using h.dev hm
  · intro _; simp [h.pc, h.bd]
  · intro hc; rw [hk] at hc; cases hc
  · rw [hk]; decide

/-- Go on after a bus operation. -/
theorem runsTo_advance {i : Instr} {s s' : State} (h : Kept s s') (hk : i.kind = .normal) :
    RunsTo i s (.next s'.advance) := by
  have := runsTo_writeReg h hk 0#5 0#64
  rwa [writeReg, State.setReg_zero] at this

/-- Write HI and LO, and go on. -/
theorem runsTo_setHiLo {i : Instr} (s : State) (hk : i.kind = .normal) (a b : Word) :
    RunsTo i s (.next (s.setHiLo a b).advance) := by
  refine ⟨rfl, rfl, rfl, rfl, rfl, rfl, fun _ _ => rfl, fun _ => rfl, id, id, id, fun _ => ⟨rfl, rfl⟩, ?_, ?_⟩
  · intro hc; rw [hk] at hc; cases hc
  · rw [hk]; decide

theorem runsTo_raise {i : Instr} (s : State) (f : FaultContext → Fault) (hf : ∀ c, (f c).context = c) :
    RunsTo i s (raise s f) := Keeps.raise id s f hf

theorem runsTo_writeUnlessOverflow {i : Instr} (s : State) (hk : i.kind = .normal) (c : Bool) (r : Reg) (v : Dword) :
    RunsTo i s (writeUnlessOverflow s c r v) := by
  unfold writeUnlessOverflow
  split
  · exact runsTo_raise s _ fun _ => rfl
  · exact runsTo_writeReg (Kept.refl s) hk r v

/-- Take or skip, after a link (a link to register 0 is none). -/
theorem runsTo_branchIf {i : Instr} (s : State) (hk : i.kind = .control) (r : Reg) (v : Dword) (c : Bool) (target : Dword) :
    RunsTo i s (branchIf (s.setReg r v) c target) := by
  unfold branchIf takeBranch skipSlot
  split
  all_goals
    refine ⟨?_, ?_, ?_, ?_, ?_, ?_, ?_, ?_, ?_, ?_, ?_, ?_, ?_, ?_⟩
    · simp
    · simp
    · simp
    · simp
    · simp
    · simp
    · intro j _; exact State.cop0_setReg s r j v
    · intro _; exact State.cop0_setReg s r 9#5 v
    · intro hz; exact State.setReg_zeroCell s r v hz
    · intro hm; simpa using hm
    · intro hm; simpa using hm
    · intro hn; rw [hk] at hn; cases hn
    · intro _; simp
    · rw [hk]; decide

theorem runsTo_branchIf' {i : Instr} (s : State) (hk : i.kind = .control) (c : Bool) (target : Dword) :
    RunsTo i s (branchIf s c target) := by
  have := runsTo_branchIf (i := i) s hk 0#5 0#64 c target
  rwa [State.setReg_zero] at this

theorem takeBranch_eq (s : State) (target : Dword) : takeBranch s target = branchIf s true target := rfl

theorem runsTo_andThen {α : Type} {st : α → State} {i : Instr} {s : State} {o : Host.Outcome α Fault Refusal}
    {f : α → Outcome} (ho : Keeps st s o) (hf : ∀ a, o = .next a → Kept s (st a) → RunsTo i s (f a)) :
    RunsTo i s (andThen o f) := by
  cases o with
  | next a => exact hf a rfl ho
  | fault e => exact ho
  | refused r => trivial

theorem runsTo_load {i : Instr} (s : State) (hk : i.kind = .normal) (rt : Reg) (ea : Dword) (n : Nat)
    (extend : Dword → Dword) : RunsTo i s (load s rt ea n extend) :=
  runsTo_andThen (memRead_keeps s ea n .read) fun _ _ h => runsTo_writeReg h hk rt _

theorem runsTo_store {i : Instr} (s : State) (hk : i.kind = .normal) (rt : Reg) (ea : Dword) (n : Nat) :
    RunsTo i s (store s rt ea n) :=
  runsTo_andThen (memWrite_keeps s ea n _) fun _ _ h => runsTo_advance h hk

theorem runsTo_loadLeft {i : Instr} (s : State) (hk : i.kind = .normal) (rt : Reg) (va : Word) (size : Nat)
    (extend : Dword → Dword) : RunsTo i s (loadLeft s rt va size extend) :=
  runsTo_andThen (readEach_keeps s _) fun _ _ h => runsTo_writeReg h hk rt _

theorem runsTo_loadRight {i : Instr} (s : State) (hk : i.kind = .normal) (rt : Reg) (va : Word) (size : Nat)
    (extend : Dword → Dword) : RunsTo i s (loadRight s rt va size extend) :=
  runsTo_andThen (readEach_keeps s _) fun _ _ h => runsTo_writeReg h hk rt _

theorem runsTo_storeLeft {i : Instr} (s : State) (hk : i.kind = .normal) (rt : Reg) (va : Word) (size : Nat) :
    RunsTo i s (storeLeft s rt va size) :=
  runsTo_andThen (writeEach_keeps s _) fun _ _ h => runsTo_advance h hk

theorem runsTo_storeRight {i : Instr} (s : State) (hk : i.kind = .normal) (rt : Reg) (va : Word) (size : Nat) :
    RunsTo i s (storeRight s rt va size) :=
  runsTo_andThen (writeEach_keeps s _) fun _ _ h => runsTo_advance h hk

/-- A move to a system-control register, whichever of the two. -/
theorem runsTo_moveToCop0 {i : Instr} (s : State) (hk : i.kind = .normal) (number : Reg) (v : Dword)
    (hi : (∀ rt : Reg, i ≠ .mtc0 rt 9#5 ∧ i ≠ .dmtc0 rt 9#5) → number ≠ 9#5) : RunsTo i s (moveToCop0 s number v) := by
  unfold moveToCop0
  split
  · rename_i hw
    refine ⟨rfl, rfl, rfl, rfl, rfl, rfl, ?_, ?_, id, id, id, fun _ => ⟨rfl, rfl⟩, ?_, ?_⟩
    · intro j hj
      show (s.setCop0 number v).cop0 j = _
      rw [State.cop0_setCop0, if_neg (fun h => hj (by rw [h]; exact hw))]
    · intro hn
      show (s.setCop0 number v).cop0 9#5 = _
      rw [State.cop0_setCop0, if_neg (Ne.symm (hi hn))]
    · intro hc; rw [hk] at hc; cases hc
    · rw [hk]; decide
  · exact runsTo_raise s _ fun _ => rfl

/-! ### The memory instructions as their shared operation -/

section equations
variable (rt base : Reg) (offset : BitVec 16) (s : State)
theorem exec_ldl : exec (.ldl rt offset base) s =
    loadLeft s rt (low32 (effAddr s base offset)) 8 fun v => v := rfl
theorem exec_ldr : exec (.ldr rt offset base) s =
    loadRight s rt (low32 (effAddr s base offset)) 8 fun v => v := rfl
theorem exec_lb : exec (.lb rt offset base) s =
    load s rt (effAddr s base offset) 1 fun v => (v.setWidth 8).signExtend 64 := rfl
theorem exec_lh : exec (.lh rt offset base) s =
    load s rt (effAddr s base offset) 2 fun v => (v.setWidth 16).signExtend 64 := rfl
theorem exec_lwl : exec (.lwl rt offset base) s =
    loadLeft s rt (low32 (effAddr s base offset)) 4 fun v => sext64 (low32 v) := rfl
theorem exec_lw : exec (.lw rt offset base) s =
    load s rt (effAddr s base offset) 4 fun v => sext64 (low32 v) := rfl
theorem exec_lbu : exec (.lbu rt offset base) s =
    load s rt (effAddr s base offset) 1 fun v => v := rfl
theorem exec_lhu : exec (.lhu rt offset base) s =
    load s rt (effAddr s base offset) 2 fun v => v := rfl
theorem exec_lwr : exec (.lwr rt offset base) s =
    loadRight s rt (low32 (effAddr s base offset)) 4 fun v => sext64 (low32 v) := rfl
theorem exec_lwu : exec (.lwu rt offset base) s =
    load s rt (effAddr s base offset) 4 fun v => v := rfl
theorem exec_sb : exec (.sb rt offset base) s =
    store s rt (effAddr s base offset) 1 := rfl
theorem exec_sh : exec (.sh rt offset base) s =
    store s rt (effAddr s base offset) 2 := rfl
theorem exec_swl : exec (.swl rt offset base) s =
    storeLeft s rt (low32 (effAddr s base offset)) 4 := rfl
theorem exec_sw : exec (.sw rt offset base) s =
    store s rt (effAddr s base offset) 4 := rfl
theorem exec_sdl : exec (.sdl rt offset base) s =
    storeLeft s rt (low32 (effAddr s base offset)) 8 := rfl
theorem exec_sdr : exec (.sdr rt offset base) s =
    storeRight s rt (low32 (effAddr s base offset)) 8 := rfl
theorem exec_swr : exec (.swr rt offset base) s =
    storeRight s rt (low32 (effAddr s base offset)) 4 := rfl
theorem exec_ld : exec (.ld rt offset base) s =
    load s rt (effAddr s base offset) 8 fun v => v := rfl
theorem exec_sd : exec (.sd rt offset base) s =
    store s rt (effAddr s base offset) 8 := rfl
end equations

/-! ### Every instruction -/

/-- Whatever the instruction: what it can do where it completes, and that a fault leaves everything but bytes as it was. -/
theorem exec_runsTo (i : Instr) (s : State) : RunsTo i s (exec i s) := by
  cases i with
  | nop => exact runsTo_advance (Kept.refl s) rfl
  | b _ => exact runsTo_branchIf' s rfl true _
  | bRegimm _ => exact runsTo_branchIf' s rfl true _
  | sll _ _ _ => exact runsTo_writeReg (Kept.refl s) rfl _ _
  | srl _ _ _ => exact runsTo_writeReg (Kept.refl s) rfl _ _
  | sra _ _ _ => exact runsTo_writeReg (Kept.refl s) rfl _ _
  | sllv _ _ _ => exact runsTo_writeReg (Kept.refl s) rfl _ _
  | srlv _ _ _ => exact runsTo_writeReg (Kept.refl s) rfl _ _
  | srav _ _ _ => exact runsTo_writeReg (Kept.refl s) rfl _ _
  | jr _ => exact runsTo_branchIf' s rfl true _
  | jalr _ _ => exact runsTo_branchIf s rfl _ _ true _
  | syscall _ => exact runsTo_raise s _ fun _ => rfl
  | breakI _ => exact runsTo_raise s _ fun _ => rfl
  | sync => exact runsTo_advance (Kept.refl s) rfl
  | mfhi _ => exact runsTo_writeReg (Kept.refl s) rfl _ _
  | mthi _ => exact runsTo_setHiLo s rfl _ _
  | mflo _ => exact runsTo_writeReg (Kept.refl s) rfl _ _
  | mtlo _ => exact runsTo_setHiLo s rfl _ _
  | dsllv _ _ _ => exact runsTo_writeReg (Kept.refl s) rfl _ _
  | dsrlv _ _ _ => exact runsTo_writeReg (Kept.refl s) rfl _ _
  | dsrav _ _ _ => exact runsTo_writeReg (Kept.refl s) rfl _ _
  | mult _ _ => exact runsTo_setHiLo s rfl _ _
  | multu _ _ => exact runsTo_setHiLo s rfl _ _
  | div _ _ => exact runsTo_setHiLo s rfl _ _
  | divu _ _ => exact runsTo_setHiLo s rfl _ _
  | add _ _ _ => exact runsTo_writeUnlessOverflow s rfl _ _ _
  | addu _ _ _ => exact runsTo_writeReg (Kept.refl s) rfl _ _
  | sub _ _ _ => exact runsTo_writeUnlessOverflow s rfl _ _ _
  | subu _ _ _ => exact runsTo_writeReg (Kept.refl s) rfl _ _
  | and _ _ _ => exact runsTo_writeReg (Kept.refl s) rfl _ _
  | or _ _ _ => exact runsTo_writeReg (Kept.refl s) rfl _ _
  | xor _ _ _ => exact runsTo_writeReg (Kept.refl s) rfl _ _
  | nor _ _ _ => exact runsTo_writeReg (Kept.refl s) rfl _ _
  | slt _ _ _ => exact runsTo_writeReg (Kept.refl s) rfl _ _
  | sltu _ _ _ => exact runsTo_writeReg (Kept.refl s) rfl _ _
  | dadd _ _ _ => exact runsTo_writeUnlessOverflow s rfl _ _ _
  | daddu _ _ _ => exact runsTo_writeReg (Kept.refl s) rfl _ _
  | dsub _ _ _ => exact runsTo_writeUnlessOverflow s rfl _ _ _
  | dsubu _ _ _ => exact runsTo_writeReg (Kept.refl s) rfl _ _
  | dsll _ _ _ => exact runsTo_writeReg (Kept.refl s) rfl _ _
  | dsrl _ _ _ => exact runsTo_writeReg (Kept.refl s) rfl _ _
  | dsra _ _ _ => exact runsTo_writeReg (Kept.refl s) rfl _ _
  | dsll32 _ _ _ => exact runsTo_writeReg (Kept.refl s) rfl _ _
  | dsrl32 _ _ _ => exact runsTo_writeReg (Kept.refl s) rfl _ _
  | dsra32 _ _ _ => exact runsTo_writeReg (Kept.refl s) rfl _ _
  | bltz _ _ => exact runsTo_branchIf' s rfl _ _
  | bgez _ _ => exact runsTo_branchIf' s rfl _ _
  | bltzl _ _ => exact runsTo_branchIf' s rfl _ _
  | bgezl _ _ => exact runsTo_branchIf' s rfl _ _
  | bltzal _ _ => exact runsTo_branchIf s rfl _ _ _ _
  | bgezal _ _ => exact runsTo_branchIf s rfl _ _ _ _
  | bltzall _ _ => exact runsTo_branchIf s rfl _ _ _ _
  | bgezall _ _ => exact runsTo_branchIf s rfl _ _ _ _
  | j _ => exact runsTo_branchIf' s rfl true _
  | jal _ => exact runsTo_branchIf s rfl _ _ true _
  | beq _ _ _ => exact runsTo_branchIf' s rfl _ _
  | bne _ _ _ => exact runsTo_branchIf' s rfl _ _
  | blez _ _ => exact runsTo_branchIf' s rfl _ _
  | bgtz _ _ => exact runsTo_branchIf' s rfl _ _
  | addi _ _ _ => exact runsTo_writeUnlessOverflow s rfl _ _ _
  | addiu _ _ _ => exact runsTo_writeReg (Kept.refl s) rfl _ _
  | slti _ _ _ => exact runsTo_writeReg (Kept.refl s) rfl _ _
  | sltiu _ _ _ => exact runsTo_writeReg (Kept.refl s) rfl _ _
  | andi _ _ _ => exact runsTo_writeReg (Kept.refl s) rfl _ _
  | ori _ _ _ => exact runsTo_writeReg (Kept.refl s) rfl _ _
  | xori _ _ _ => exact runsTo_writeReg (Kept.refl s) rfl _ _
  | lui _ _ => exact runsTo_writeReg (Kept.refl s) rfl _ _
  | mfc0 _ _ => exact runsTo_writeReg (Kept.refl s) rfl _ _
  | dmfc0 _ _ => exact runsTo_writeReg (Kept.refl s) rfl _ _
  | mtc0 rt rd => exact runsTo_moveToCop0 s rfl rd _ fun h e => (h rt).1 (by rw [e])
  | dmtc0 rt rd => exact runsTo_moveToCop0 s rfl rd _ fun h e => (h rt).2 (by rw [e])
  | tlbr => exact runsTo_raise s _ fun _ => rfl
  | tlbwi => exact runsTo_raise s _ fun _ => rfl
  | tlbwr => exact runsTo_raise s _ fun _ => rfl
  | tlbp => exact runsTo_raise s _ fun _ => rfl
  | eret => exact runsTo_raise s _ fun _ => rfl
  | cop1 _ => exact runsTo_raise s _ fun _ => rfl
  | beql _ _ _ => exact runsTo_branchIf' s rfl _ _
  | bnel _ _ _ => exact runsTo_branchIf' s rfl _ _
  | blezl _ _ => exact runsTo_branchIf' s rfl _ _
  | bgtzl _ _ => exact runsTo_branchIf' s rfl _ _
  | daddi _ _ _ => exact runsTo_writeUnlessOverflow s rfl _ _ _
  | daddiu _ _ _ => exact runsTo_writeReg (Kept.refl s) rfl _ _
  | ldl _ _ _ => rw [exec_ldl]; exact runsTo_loadLeft s rfl _ _ _ _
  | ldr _ _ _ => rw [exec_ldr]; exact runsTo_loadRight s rfl _ _ _ _
  | lb _ _ _ => rw [exec_lb]; exact runsTo_load s rfl _ _ _ _
  | lh _ _ _ => rw [exec_lh]; exact runsTo_load s rfl _ _ _ _
  | lwl _ _ _ => rw [exec_lwl]; exact runsTo_loadLeft s rfl _ _ _ _
  | lw _ _ _ => rw [exec_lw]; exact runsTo_load s rfl _ _ _ _
  | lbu _ _ _ => rw [exec_lbu]; exact runsTo_load s rfl _ _ _ _
  | lhu _ _ _ => rw [exec_lhu]; exact runsTo_load s rfl _ _ _ _
  | lwr _ _ _ => rw [exec_lwr]; exact runsTo_loadRight s rfl _ _ _ _
  | lwu _ _ _ => rw [exec_lwu]; exact runsTo_load s rfl _ _ _ _
  | sb _ _ _ => rw [exec_sb]; exact runsTo_store s rfl _ _ _
  | sh _ _ _ => rw [exec_sh]; exact runsTo_store s rfl _ _ _
  | swl _ _ _ => rw [exec_swl]; exact runsTo_storeLeft s rfl _ _ _
  | sw _ _ _ => rw [exec_sw]; exact runsTo_store s rfl _ _ _
  | sdl _ _ _ => rw [exec_sdl]; exact runsTo_storeLeft s rfl _ _ _
  | sdr _ _ _ => rw [exec_sdr]; exact runsTo_storeRight s rfl _ _ _
  | swr _ _ _ => rw [exec_swr]; exact runsTo_storeRight s rfl _ _ _
  | cache _ _ _ => exact runsTo_advance (Kept.refl s) rfl
  | lwc1 _ _ _ => exact runsTo_raise s _ fun _ => rfl
  | ldc1 _ _ _ => exact runsTo_raise s _ fun _ => rfl
  | ld _ _ _ => rw [exec_ld]; exact runsTo_load s rfl _ _ _ _
  | swc1 _ _ _ => exact runsTo_raise s _ fun _ => rfl
  | sdc1 _ _ _ => exact runsTo_raise s _ fun _ => rfl
  | sd _ _ _ => rw [exec_sd]; exact runsTo_store s rfl _ _ _

theorem exec_ran {i : Instr} {s t : State} (h : exec i s = .next t) : Ran i s t := by
  have := exec_runsTo i s; rw [h] at this; exact this

theorem exec_faultKept {i : Instr} {s : State} {f : Fault} (h : exec i s = .fault f) : FaultKept s f := by
  have := exec_runsTo i s; rw [h] at this; exact this

/-! ### Where the model refuses -/

theorem readEach_not_refused (s : State) (as : List Word) (r : Refusal) : readEach s as ≠ .refused r := by
  induction as generalizing s with
  | nil => exact next_ne_refused _ r
  | cons a as ih =>
    refine andThen_not_refused (memRead_not_refused s _ 1 .read r) fun p => ?_
    exact andThen_not_refused (ih p.2) fun _ => next_ne_refused _ r

theorem writeEach_not_refused (s : State) (l : List (Word × Byte)) (r : Refusal) : writeEach s l ≠ .refused r := by
  induction l generalizing s with
  | nil => exact next_ne_refused s r
  | cons p l ih => exact andThen_not_refused (memWrite_not_refused s _ 1 _ r) fun s' => ih s'

theorem next_not_refused (t : State) (r : Refusal) : (Host.Outcome.next t : Outcome) ≠ .refused r := next_ne_refused t r
theorem fault_not_refused (f : Fault) (r : Refusal) : (Host.Outcome.fault f : Outcome) ≠ .refused r := by simp

theorem writeUnlessOverflow_not_refused (s : State) (c : Bool) (q : Reg) (v : Dword) (r : Refusal) :
    writeUnlessOverflow s c q v ≠ .refused r := by
  unfold writeUnlessOverflow
  split
  · exact fault_not_refused _ _
  · exact next_not_refused _ _

theorem branchIf_not_refused (s : State) (c : Bool) (target : Dword) (r : Refusal) : branchIf s c target ≠ .refused r := by
  unfold branchIf
  split <;> exact next_not_refused _ _

theorem moveToCop0_not_refused (s : State) (number : Reg) (v : Dword) (r : Refusal) :
    moveToCop0 s number v ≠ .refused r := by
  unfold moveToCop0
  split
  · exact next_not_refused _ _
  · exact fault_not_refused _ _

/-- No instruction is refused (40_step_engine.md R152). -/
theorem exec_not_refused (s : State) (i : Instr) (r : Refusal) : exec i s ≠ .refused r := by
  have hl := fun ea n => memRead_not_refused s ea n .read r
  have hw := fun ea n v => memWrite_not_refused s ea n v r
  have hr := fun as => readEach_not_refused s as r
  have he := fun l => writeEach_not_refused s l r
  cases i with
  | nop => exact next_not_refused _ _
  | b _ => exact next_not_refused _ _
  | bRegimm _ => exact next_not_refused _ _
  | sll _ _ _ => exact next_not_refused _ _
  | srl _ _ _ => exact next_not_refused _ _
  | sra _ _ _ => exact next_not_refused _ _
  | sllv _ _ _ => exact next_not_refused _ _
  | srlv _ _ _ => exact next_not_refused _ _
  | srav _ _ _ => exact next_not_refused _ _
  | jr _ => exact next_not_refused _ _
  | jalr _ _ => exact next_not_refused _ _
  | syscall _ => exact fault_not_refused _ _
  | breakI _ => exact fault_not_refused _ _
  | sync => exact next_not_refused _ _
  | mfhi _ => exact next_not_refused _ _
  | mthi _ => exact next_not_refused _ _
  | mflo _ => exact next_not_refused _ _
  | mtlo _ => exact next_not_refused _ _
  | dsllv _ _ _ => exact next_not_refused _ _
  | dsrlv _ _ _ => exact next_not_refused _ _
  | dsrav _ _ _ => exact next_not_refused _ _
  | mult _ _ => exact next_not_refused _ _
  | multu _ _ => exact next_not_refused _ _
  | div _ _ => exact next_not_refused _ _
  | divu _ _ => exact next_not_refused _ _
  | add _ _ _ => exact writeUnlessOverflow_not_refused _ _ _ _ _
  | addu _ _ _ => exact next_not_refused _ _
  | sub _ _ _ => exact writeUnlessOverflow_not_refused _ _ _ _ _
  | subu _ _ _ => exact next_not_refused _ _
  | and _ _ _ => exact next_not_refused _ _
  | or _ _ _ => exact next_not_refused _ _
  | xor _ _ _ => exact next_not_refused _ _
  | nor _ _ _ => exact next_not_refused _ _
  | slt _ _ _ => exact next_not_refused _ _
  | sltu _ _ _ => exact next_not_refused _ _
  | dadd _ _ _ => exact writeUnlessOverflow_not_refused _ _ _ _ _
  | daddu _ _ _ => exact next_not_refused _ _
  | dsub _ _ _ => exact writeUnlessOverflow_not_refused _ _ _ _ _
  | dsubu _ _ _ => exact next_not_refused _ _
  | dsll _ _ _ => exact next_not_refused _ _
  | dsrl _ _ _ => exact next_not_refused _ _
  | dsra _ _ _ => exact next_not_refused _ _
  | dsll32 _ _ _ => exact next_not_refused _ _
  | dsrl32 _ _ _ => exact next_not_refused _ _
  | dsra32 _ _ _ => exact next_not_refused _ _
  | bltz _ _ => exact branchIf_not_refused _ _ _ _
  | bgez _ _ => exact branchIf_not_refused _ _ _ _
  | bltzl _ _ => exact branchIf_not_refused _ _ _ _
  | bgezl _ _ => exact branchIf_not_refused _ _ _ _
  | bltzal _ _ => exact branchIf_not_refused _ _ _ _
  | bgezal _ _ => exact branchIf_not_refused _ _ _ _
  | bltzall _ _ => exact branchIf_not_refused _ _ _ _
  | bgezall _ _ => exact branchIf_not_refused _ _ _ _
  | j _ => exact next_not_refused _ _
  | jal _ => exact next_not_refused _ _
  | beq _ _ _ => exact branchIf_not_refused _ _ _ _
  | bne _ _ _ => exact branchIf_not_refused _ _ _ _
  | blez _ _ => exact branchIf_not_refused _ _ _ _
  | bgtz _ _ => exact branchIf_not_refused _ _ _ _
  | addi _ _ _ => exact writeUnlessOverflow_not_refused _ _ _ _ _
  | addiu _ _ _ => exact next_not_refused _ _
  | slti _ _ _ => exact next_not_refused _ _
  | sltiu _ _ _ => exact next_not_refused _ _
  | andi _ _ _ => exact next_not_refused _ _
  | ori _ _ _ => exact next_not_refused _ _
  | xori _ _ _ => exact next_not_refused _ _
  | lui _ _ => exact next_not_refused _ _
  | mfc0 _ _ => exact next_not_refused _ _
  | dmfc0 _ _ => exact next_not_refused _ _
  | mtc0 _ _ => exact moveToCop0_not_refused _ _ _ _
  | dmtc0 _ _ => exact moveToCop0_not_refused _ _ _ _
  | tlbr => exact fault_not_refused _ _
  | tlbwi => exact fault_not_refused _ _
  | tlbwr => exact fault_not_refused _ _
  | tlbp => exact fault_not_refused _ _
  | eret => exact fault_not_refused _ _
  | cop1 _ => exact fault_not_refused _ _
  | beql _ _ _ => exact branchIf_not_refused _ _ _ _
  | bnel _ _ _ => exact branchIf_not_refused _ _ _ _
  | blezl _ _ => exact branchIf_not_refused _ _ _ _
  | bgtzl _ _ => exact branchIf_not_refused _ _ _ _
  | daddi _ _ _ => exact writeUnlessOverflow_not_refused _ _ _ _ _
  | daddiu _ _ _ => exact next_not_refused _ _
  | ldl _ _ _ => rw [exec_ldl]; exact andThen_not_refused (hr _) fun _ => next_not_refused _ _
  | ldr _ _ _ => rw [exec_ldr]; exact andThen_not_refused (hr _) fun _ => next_not_refused _ _
  | lb _ _ _ => rw [exec_lb]; exact andThen_not_refused (hl _ _) fun _ => next_not_refused _ _
  | lh _ _ _ => rw [exec_lh]; exact andThen_not_refused (hl _ _) fun _ => next_not_refused _ _
  | lwl _ _ _ => rw [exec_lwl]; exact andThen_not_refused (hr _) fun _ => next_not_refused _ _
  | lw _ _ _ => rw [exec_lw]; exact andThen_not_refused (hl _ _) fun _ => next_not_refused _ _
  | lbu _ _ _ => rw [exec_lbu]; exact andThen_not_refused (hl _ _) fun _ => next_not_refused _ _
  | lhu _ _ _ => rw [exec_lhu]; exact andThen_not_refused (hl _ _) fun _ => next_not_refused _ _
  | lwr _ _ _ => rw [exec_lwr]; exact andThen_not_refused (hr _) fun _ => next_not_refused _ _
  | lwu _ _ _ => rw [exec_lwu]; exact andThen_not_refused (hl _ _) fun _ => next_not_refused _ _
  | sb _ _ _ => rw [exec_sb]; exact andThen_not_refused (hw _ _ _) fun _ => next_not_refused _ _
  | sh _ _ _ => rw [exec_sh]; exact andThen_not_refused (hw _ _ _) fun _ => next_not_refused _ _
  | swl _ _ _ => rw [exec_swl]; exact andThen_not_refused (he _) fun _ => next_not_refused _ _
  | sw _ _ _ => rw [exec_sw]; exact andThen_not_refused (hw _ _ _) fun _ => next_not_refused _ _
  | sdl _ _ _ => rw [exec_sdl]; exact andThen_not_refused (he _) fun _ => next_not_refused _ _
  | sdr _ _ _ => rw [exec_sdr]; exact andThen_not_refused (he _) fun _ => next_not_refused _ _
  | swr _ _ _ => rw [exec_swr]; exact andThen_not_refused (he _) fun _ => next_not_refused _ _
  | cache _ _ _ => exact next_not_refused _ _
  | lwc1 _ _ _ => exact fault_not_refused _ _
  | ldc1 _ _ _ => exact fault_not_refused _ _
  | ld _ _ _ => rw [exec_ld]; exact andThen_not_refused (hl _ _) fun _ => next_not_refused _ _
  | swc1 _ _ _ => exact fault_not_refused _ _
  | sdc1 _ _ _ => exact fault_not_refused _ _
  | sd _ _ _ => rw [exec_sd]; exact andThen_not_refused (hw _ _ _) fun _ => next_not_refused _ _

end Sys2Proof.Machine
end

