-- ==== Sys2Proof/Laws/Step.lean ====
section
/-! SUPPORT. All a step can do: how a completed step and a faulted step came about, stage by stage (40_step_engine.md R151). -/

namespace Sys2Proof.Machine

/-! ### The stages -/

theorem fetch_keeps (s : State) : Keeps Prod.snd s (fetch s) :=
  Keeps.andThen (memRead_keeps s _ 4 .fetch) fun r _ => Kept.refl r.2

theorem fetch_eq (s : State) : fetch s = andThen (memRead s s.pc 4 .fetch) fun r => .next (low32 r.1, r.2) := rfl

theorem fetch_next {s s' : State} {v : Dword} (h : memRead s s.pc 4 .fetch = .next (v, s')) :
    fetch s = .next (low32 v, s') := by rw [fetch_eq, h]; rfl

theorem kept_of_fetch {s s' : State} {w : Word} (h : fetch s = .next (w, s')) : Kept s s' := by
  have := fetch_keeps s; rw [h] at this; exact this

theorem faultKept_of_fetch {s : State} {f : Fault} (h : fetch s = .fault f) : FaultKept s f := by
  have := fetch_keeps s; rw [h] at this; exact this

theorem fetchDecode_next {s s' : State} {slot : Option Dword} {w : Word} {i : Instr}
    (h1 : fetch s = .next (w, s')) (h2 : decodeWord w = some i) : fetchDecode s slot = .next (w, i, s') := by
  simp only [fetchDecode, h1, h2]

/-- A fetch and decode that succeed. -/
theorem of_fetchDecode_next {s s' : State} {slot : Option Dword} {w : Word} {i : Instr}
    (h : fetchDecode s slot = .next (w, i, s')) : fetch s = .next (w, s') ∧ decodeWord w = some i := by
  unfold fetchDecode at h
  split at h
  · cases h
  · cases h
  · rename_i w' t h1
    split at h
    · rename_i j h2
      cases h
      exact ⟨h1, h2⟩
    · cases h

/-- A fetch or decode that faults: the fetch's own fault, or `DecodeFault`. -/
theorem of_fetchDecode_fault {s : State} {slot : Option Dword} {f : Fault} (h : fetchDecode s slot = .fault f) :
    (∃ e, fetch s = .fault e ∧ f = e.inStep none slot) ∨
      ∃ w s', fetch s = .next (w, s') ∧ decodeWord w = none ∧ f = (Fault.decodeFault s'.context).inStep (some w) slot := by
  unfold fetchDecode at h
  split at h
  · rename_i e h1; cases h; exact .inl ⟨e, h1, rfl⟩
  · cases h
  · rename_i w' t h1
    split at h
    · cases h
    · rename_i h2; cases h; exact .inr ⟨w', t, h1, h2, rfl⟩

theorem kept_of_fetchDecode {s s' : State} {slot : Option Dword} {w : Word} {i : Instr}
    (h : fetchDecode s slot = .next (w, i, s')) : Kept s s' := kept_of_fetch (of_fetchDecode_next h).1

theorem completeStep_ok {slot : Option Dword} {i : Instr} (h : slot = none ∨ i.kind ≠ .control) (w : Word) (s : State)
    (o : Outcome) : completeStep slot w i s o = match o with
      | .next t => .next (finishStep slot t)
      | .fault f => .fault (f.inStep (some w) slot)
      | .refused r => .refused r := by
  have : (slot.isSome && i.kind == .control) = false := by
    rcases h with h | h
    · simp [h]
    · simp [h]
  simp only [completeStep, this]
  rfl

/-- A control transfer in a delay-slot cycle. -/
theorem completeStep_rejected {target : Dword} {i : Instr} (h : i.kind = .control) (w : Word) (s : State) (o : Outcome) :
    completeStep (some target) w i s o = .fault ((Fault.branchInDelaySlot s.context).inStep (some w) (some target)) := by
  simp [completeStep, h]

theorem step_of_fetchDecode {s s' : State} {w : Word} {i : Instr} (h0 : configRefusal s = none)
    (h : fetchDecode (beginStep s) s.bd = .next (w, i, s')) : step s = completeStep s.bd w i s' (exec i s') := by
  simp only [step, h0, h]

/-! ### How a step ends -/

/-- A completed step. -/
theorem of_step_next {s t : State} (h : step s = .next t) :
    ∃ w i s' u, configRefusal s = none ∧ fetchDecode (beginStep s) s.bd = .next (w, i, s') ∧
      (s.bd = none ∨ i.kind ≠ .control) ∧ exec i s' = .next u ∧ t = finishStep s.bd u := by
  unfold step at h
  split at h
  · cases h
  · rename_i h0
    split at h
    · cases h
    · cases h
    · rename_i w i s' h1
      unfold completeStep at h
      split at h
      · cases h
      · rename_i h2
        split at h
        · rename_i u h3
          cases h
          refine ⟨w, i, s', u, h0, h1, ?_, h3, rfl⟩
          cases hb : s.bd with
          | none => exact .inl rfl
          | some x => right; intro hk; simp [hb, hk] at h2
        · cases h
        · cases h

/-- A faulted step: in the fetch, in the decoder, before the handler of a control transfer in a delay slot, or in the
handler. -/
theorem of_step_fault {s : State} {f : Fault} (h : step s = .fault f) :
    configRefusal s = none ∧
    ((∃ e, fetch (beginStep s) = .fault e ∧ f = e.inStep none s.bd) ∨
     ∃ w s', fetch (beginStep s) = .next (w, s') ∧
      ((decodeWord w = none ∧ f = (Fault.decodeFault s'.context).inStep (some w) s.bd) ∨
       ∃ i, decodeWord w = some i ∧
        ((i.kind = .control ∧ s.bd.isSome = true ∧ f = (Fault.branchInDelaySlot s'.context).inStep (some w) s.bd) ∨
         ∃ e, exec i s' = .fault e ∧ f = e.inStep (some w) s.bd))) := by
  unfold step at h
  split at h
  · cases h
  · rename_i h0
    refine ⟨h0, ?_⟩
    split at h
    · rename_i e h1
      cases h
      rcases of_fetchDecode_fault h1 with h2 | ⟨w, s', h2, h3, h4⟩
      · exact .inl h2
      · exact .inr ⟨w, s', h2, .inl ⟨h3, h4⟩⟩
    · cases h
    · rename_i w i s' h1
      obtain ⟨h2, h3⟩ := of_fetchDecode_next h1
      refine .inr ⟨w, s', h2, .inr ⟨i, h3, ?_⟩⟩
      unfold completeStep at h
      split at h
      · rename_i h4
        cases h
        simp only [Bool.and_eq_true, beq_iff_eq] at h4
        exact .inl ⟨h4.2, h4.1, rfl⟩
      · split at h
        · cases h
        · rename_i e h5
          cases h
          exact .inr ⟨e, h5, rfl⟩
        · cases h

@[simp] theorem Fault.withContext_context (c : FaultContext) (f : Fault) : (f.withContext c).context = c := by
  cases f <;> rfl

@[simp] theorem Fault.inStep_context (w : Option Word) (slot : Option Dword) (f : Fault) :
    (f.inStep w slot).context = { f.context with word := w, slot := slot } := by simp [Fault.inStep]

/-- Every faulted step: its record, and that the state it leaves is the one stage 2 made but for bytes. -/
theorem faultKept_of_step {s : State} {f : Fault} (h : step s = .fault f) :
    f.context.pc = s.pc ∧ f.context.slot = s.bd ∧ Kept (beginStep s) f.context.after := by
  obtain ⟨_, h⟩ := of_step_fault h
  rcases h with ⟨e, h1, rfl⟩ | ⟨w, s', h1, h⟩
  · have := faultKept_of_fetch h1
    exact ⟨by simpa using this.1, by simp, by simpa using this.2.2.2⟩
  · have hk := kept_of_fetch h1
    rcases h with ⟨_, rfl⟩ | ⟨i, _, ⟨_, _, rfl⟩ | ⟨e, h3, rfl⟩⟩
    · exact ⟨by rw [Fault.inStep_context]; exact hk.pc, by simp, by rw [Fault.inStep_context]; exact hk⟩
    · exact ⟨by rw [Fault.inStep_context]; exact hk.pc, by simp, by rw [Fault.inStep_context]; exact hk⟩
    · have := FaultKept.of_kept hk (exec_faultKept h3)
      exact ⟨by simpa using this.1, by simp, by simpa using this.2.2.2⟩

end Sys2Proof.Machine
end

