-- ==== Sys2Proof/Laws/Claims.lean ====
section
/-! SUPPORT. Lemmas between the model and the words of the statements: what the shared operations do in terms of the frames
of Obligations.lean, and values as integers. -/

namespace Sys2Proof.Claims

open Sys2Proof.Machine

/-- A general row that conflicts with no alias row decodes its words. -/
theorem decodesAs_row {m e : Word} {mk : Word → Instr} (h : (⟨m, e, mk⟩ : Descriptor) ∈ tableGeneral)
    (hc : ∀ a ∈ tableAliases, Descriptor.conflicts ⟨m, e, mk⟩ a = true) : DecodesAs m e mk :=
  fun w hw => decodeWord_of_row h hc (by simp [Descriptor.matches, hw])

/-- The frame of the system part, from equal fields. -/
theorem sameSystem_of {s t : State} (h1 : t.c0 = s.c0) (h2 : t.fcr0 = s.fcr0) (h3 : t.fcr31 = s.fcr31) (h4 : t.cycles = s.cycles)
   (h5 : t.tlb = s.tlb) (h6 : t.map = s.map) (h7 : t.draws = s.draws) : SameSystem s t :=
  ⟨fun i => State.cop0_congr h1 i, h2, h3, h4, h5, h6, h7⟩

/-- What `writeReg` does after a data access. -/
theorem completesAfter_writeReg {s s' : State} (h : Kept s s') (rt : Reg) (v : Dword) :
    CompletesAfter s s' rt v (writeReg s' rt v) := by
  refine ⟨_, rfl, ?_, ?_, ?_, ?_, ?_, ?_, ?_, ?_⟩
  · rw [State.reg_advance]; exact State.reg_setReg_same ..
  · intro q hq; rw [State.reg_advance, State.reg_setReg_ne _ _ hq, h.reg]
  · simp [h.pc]
  · simp [h.hi]
  · simp [h.lo]
  · simp [h.bd]
  · apply sameSystem_of <;> simp [h.c0, h.fcr0, h.fcr31, h.cycles, h.tlb, h.map, h.draws]
  · exact ⟨fun a => by simp, fun a => by simp⟩

/-- What `writeReg` does. -/
theorem writes (s : State) (rd : Reg) (v : Dword) : WritesReg s rd v (writeReg s rd v) :=
  completesAfter_writeReg (Kept.refl s) rd v

/-- What `writeReg` does, for an outcome and a value equal to its own. -/
theorem writes_of {s : State} {rd : Reg} {v v' : Dword} {o : Outcome} (h : o = writeReg s rd v') (hv : v' = v) :
    WritesReg s rd v o := by subst h hv; exact writes s rd _

/-- What writing both accumulator halves and going on does. -/
theorem writesHiLo (s : State) (h l : Word) : WritesHiLo s h l (.next (s.setHiLo h l).advance) :=
  ⟨_, rfl, rfl, rfl, fun _ => rfl, rfl, rfl, sameSystem_of rfl rfl rfl rfl rfl rfl rfl, fun _ => rfl, fun _ => rfl⟩

/-- What going on does. -/
theorem onlyAdvances (s : State) : OnlyAdvances s (.next s.advance) :=
  ⟨_, rfl, fun _ => rfl, rfl, rfl, rfl, rfl, sameSystem_of rfl rfl rfl rfl rfl rfl rfl, fun _ => rfl, fun _ => rfl⟩

/-- What `branchIf` does. -/
theorem transfers (s : State) (c : Bool) (taken : Prop) (target : Dword) (h : taken ↔ c = true) :
    Transfers s taken target none (branchIf s c target) := by
  unfold branchIf
  cases c <;> simp at h
  · refine ⟨_, rfl, fun ht => absurd ht h, fun _ => ⟨rfl, rfl⟩, ?_, rfl, rfl, sameSystem_of rfl rfl rfl rfl rfl rfl rfl, fun _ => rfl, fun _ => rfl⟩
    intro q; simp [State.reg]
  · refine ⟨_, rfl, fun _ => ⟨rfl, rfl⟩, fun hn => absurd h hn, ?_, rfl, rfl, sameSystem_of rfl rfl rfl rfl rfl rfl rfl, fun _ => rfl, fun _ => rfl⟩
    intro q; simp [State.reg]

/-- What `branchIf` after a link does. -/
theorem transfersLink (s : State) (c : Bool) (taken : Prop) (target : Dword) (r : Reg) (h : taken ↔ c = true) :
    Transfers s taken target (some r) (branchIf (s.linkTo r) c target) := by
  have hr : ∀ q : Reg, (s.linkTo r).reg q = if some r = some q ∧ q ≠ 0#5 then s.pc + 8#64 else s.reg q := by
    intro q
    unfold State.linkTo
    rw [State.reg_setReg]
    by_cases h1 : r = q
    · subst h1; by_cases h0 : r = 0#5 <;> simp [h0]
    · simp [h1, Ne.symm h1]; rintro rfl; simp
  have hb : SameBytes s (s.linkTo r) := ⟨fun _ => by simp, fun _ => by simp⟩
  have hs : SameSystem s (s.linkTo r) := by apply sameSystem_of <;> simp
  unfold branchIf
  cases c <;> simp at h
  · refine ⟨_, rfl, fun ht => absurd ht h, fun _ => ⟨by simp, by simp⟩, fun q => hr q, by simp, by simp, ?_, hb.1, hb.2⟩
    exact ⟨hs.1, hs.2, hs.3, hs.4, hs.5, hs.6, hs.7⟩
  · refine ⟨_, rfl, fun _ => ⟨by simp, by simp⟩, fun hn => absurd h hn, fun q => hr q, by simp, by simp, ?_, hb.1, hb.2⟩
    exact ⟨hs.1, hs.2, hs.3, hs.4, hs.5, hs.6, hs.7⟩

/-- The low word of a register as a signed integer. -/
theorem s32_eq (s : State) (r : Reg) : s32 s r = (s.reg32 r).toInt := rfl

/-- The low word of a register as an unsigned integer. -/
theorem u32_eq (s : State) (r : Reg) : u32 s r = (s.reg32 r).toNat := by simp [u32, State.reg32, low32]

/-- A sign-extended immediate keeps its value, 32 bits. -/
theorem sext_imm32 (imm : BitVec 16) : (imm.signExtend 32).toInt = imm.toInt := by
  rw [BitVec.toInt_signExtend_of_le (by omega)]

/-- A sign-extended immediate keeps its value, 64 bits. -/
theorem sext_imm64 (imm : BitVec 16) : (sextImm imm).toInt = imm.toInt := by
  rw [sextImm, BitVec.toInt_signExtend_of_le (by omega)]

/-- Sign extension of a word, through its integer. -/
theorem sext64_eq (w : Word) : sext64 w = BitVec.ofInt 64 w.toInt := by
  apply BitVec.eq_of_toInt_eq
  rw [sext64, BitVec.toInt_signExtend_of_le (by omega), BitVec.toInt_ofInt]
  have := w.isLt; have := BitVec.toInt_lt (x := w); have := BitVec.le_toInt (x := w)
  rw [Int.bmod_eq_of_le] <;> omega

/-- A sign-extended word is the wrapped integer it is congruent to. -/
theorem sextWrap_of {w : Word} {x : Int} (h : w.toInt = x.bmod (2^32)) : sext64 w = sextWrap x := by
  rw [sext64_eq, h]; rfl

/-- A doubleword is the integer it is congruent to, signed. -/
theorem wrap64_of_toInt {w : Dword} {x : Int} (h : w.toInt = x.bmod (2^64)) : w = wrap64 x := by
  apply BitVec.eq_of_toInt_eq; rw [h, wrap64, BitVec.toInt_ofInt]

/-- A doubleword is the natural number it is congruent to. -/
theorem wrap64_of_toNat {w : Dword} {x : Nat} (h : w.toNat = x % 2^64) : w = wrap64 x := by
  apply BitVec.eq_of_toNat_eq; rw [h, wrap64]; simp

/-- A doubleword is its own signed value. -/
theorem wrap64_toInt (w : Dword) : wrap64 w.toInt = w := by simp [wrap64]

/-- `addOverflows` on words: the exact sum does not fit. -/
theorem addOverflows_word (a b : Word) : addOverflows a b = true ↔ ¬ Fits32 (a.toInt + b.toInt) := by
  simp only [addOverflows, BitVec.saddOverflow, Fits32, Bool.or_eq_true, decide_eq_true_eq]
  norm_num; omega

/-- `subOverflows` on words. -/
theorem subOverflows_word (a b : Word) : subOverflows a b = true ↔ ¬ Fits32 (a.toInt - b.toInt) := by
  simp only [subOverflows, BitVec.ssubOverflow, Fits32, Bool.or_eq_true, decide_eq_true_eq]
  norm_num; omega

/-- `addOverflows` on doublewords. -/
theorem addOverflows_dword (a b : Dword) : addOverflows a b = true ↔ ¬ Fits64 (a.toInt + b.toInt) := by
  simp only [addOverflows, BitVec.saddOverflow, Fits64, Bool.or_eq_true, decide_eq_true_eq]
  norm_num; omega

/-- `subOverflows` on doublewords. -/
theorem subOverflows_dword (a b : Dword) : subOverflows a b = true ↔ ¬ Fits64 (a.toInt - b.toInt) := by
  simp only [subOverflows, BitVec.ssubOverflow, Fits64, Bool.or_eq_true, decide_eq_true_eq]
  norm_num; omega

/-- What `writeUnlessOverflow` does. -/
theorem writeUnlessOverflow_cases {s : State} {c : Bool} {P : Prop} {rd : Reg} {v v' : Dword} (h : c = true ↔ ¬ P) (hv : P → v' = v) :
    (P → WritesReg s rd v (writeUnlessOverflow s c rd v')) ∧ (¬ P → writeUnlessOverflow s c rd v' = .fault (.integerOverflow s.context)) := by
  constructor
  · intro hp
    have : c = false := by cases c <;> simp_all
    subst this; exact writes_of rfl (hv hp)
  · intro hp; have : c = true := h.mpr hp
    subst this; rfl

/-- A sum that fits does not wrap. -/
theorem sextWrap_of_fits {x : Int} (h : Fits32 x) : sextWrap x = wrap64 x := by
  unfold sextWrap wrap64; unfold Fits32 at h
  rw [Int.bmod_eq_of_le] <;> omega

theorem bigEndian_append (xs : List Byte) (b : Byte) : bigEndian (xs ++ [b]) = bigEndian xs * 256 + b.toNat := by
  induction xs with
  | nil => simp [bigEndian]
  | cons x xs ih => simp only [List.cons_append, bigEndian, ih, List.length_append, List.length_singleton]; ring

/-- `numberOf` is the big-endian value of the list of its bytes. -/
theorem numberOf_eq (f : Nat → Byte) (n : Nat) : numberOf f n = bigEndian ((List.range n).map f) := by
  induction n with
  | zero => rfl
  | succ n ih => rw [numberOf, ih, List.range_succ, List.map_append, List.map_singleton, bigEndian_append]

/-- `n` bytes stand for a number below `256 ^ n`. -/
theorem numberOf_lt (f : Nat → Byte) (n : Nat) : numberOf f n < 256 ^ n := by
  rw [numberOf_eq]; simpa using bigEndian_lt ((List.range n).map f)

/-- Equal bytes stand for equal numbers. -/
theorem numberOf_congr {f g : Nat → Byte} {n : Nat} (h : ∀ k < n, f k = g k) : numberOf f n = numberOf g n := by
  induction n with
  | zero => rfl
  | succ n ih => rw [numberOf, numberOf, ih fun k hk => h k (by omega), h n (by omega)]

/-- Byte `k` of the number is the byte it was built from. -/
theorem byteOf_numberOf {f : Nat → Byte} {n k : Nat} (hk : k < n) : byteOf n (numberOf f n) k = f k := by
  induction n generalizing k with
  | zero => omega
  | succ n ih =>
    have hb := (f n).isLt
    by_cases h : k = n
    · subst h
      simp only [byteOf, numberOf]; apply BitVec.eq_of_toNat_eq; simp; omega
    · have := ih (k := k) (by omega)
      rw [← this]
      simp only [byteOf, numberOf]
      rw [show n + 1 - 1 - k = (n - 1 - k) + 1 by omega, Nat.pow_succ, Nat.mul_comm (256 ^ _), ← Nat.div_div_eq_div_mul]
      congr 2; omega

/-- A list by its entries. -/
theorem list_eq_range {l : List Byte} {n : Nat} {f : Nat → Byte} (hl : l.length = n) (h : ∀ i < n, l[i]? = some (f i)) : l = (List.range n).map f := by
  apply List.ext_getElem?
  intro i
  by_cases hi : i < n
  · rw [h i hi]; simp [hi]
  · rw [List.getElem?_eq_none (by omega), List.getElem?_eq_none (by simp; omega)]

/-- Reading bytes, entry by entry. -/
theorem readBytes_range (m : List Host.Cell) (a n : Nat) : Memory.readBytes m a n = (List.range n).map fun k => Memory.read m (a + k) :=
  list_eq_range (by simp) fun i hi => Memory.readBytes_getElem? m a n i hi

/-- ROM bytes, entry by entry. -/
theorem romBytes_range (im : List Byte) (a n : Nat) : romBytes im a n = (List.range n).map fun k => romByte im (a + k) :=
  list_eq_range (romBytes_length ..) fun i hi => romBytes_getElem? im a n i hi

/-- Byte `i` of a doubleword by shifting. -/
theorem byteOf_eq (n : Nat) (v : Dword) (i : Nat) : byteOf n v.toNat i = (v >>> (8 * (n - 1 - i))).setWidth 8 := by
  apply BitVec.eq_of_toNat_eq
  simp [byteOf, Nat.shiftRight_eq_div_pow, Nat.pow_mul]

/-- The bytes of a value, entry by entry. -/
theorem beBytes_range (n : Nat) (v : Dword) : beBytes n v = (List.range n).map fun k => byteOf n v.toNat k :=
  list_eq_range (by simp) fun i hi => by rw [beBytes_getElem? n v i hi, byteOf_eq]

/-- An access width is 1 to 8. -/
theorem width_bounds {n : Nat} (h : n ∈ [1,2,4,8]) : n ≤ 8 ∧ 0 < n := by
  simp only [List.mem_cons, List.not_mem_nil, or_false] at h; omega

/-- The bus address as a number. -/
theorem low32_toNat (a : Dword) : (low32 a).toNat = a.toNat % 2^32 := by simp [low32]

/-- A read of a plain mapping: the number its bytes stand for, nothing changed. -/
theorem memRead_plainNumber {s : State} {ea : Dword} {n : Nat} {pa : Word} {m : Mapping} {k : AccessKind} (h : Lands s ea n pa m) (hn : n ∈ [1,2,4,8])
    (hm : ReadsPlainly m) : ∃ v, memRead s ea n k = .next (v, s) ∧ v.toNat = plainNumber s m pa n := by
  have h4 := (lookup_contains h.found).1
  have h5 : m.lo + (pa.toNat - m.lo) = pa.toNat := by omega
  rw [memRead_handled ((by rw [low32_toNat]; exact h.aligned)) h.mapped h.found]
  obtain ⟨kind, tag, lo, hi⟩ := m
  simp only at h5 h4
  rcases hm with (hk | hk) | hk | ⟨i, hk⟩ <;> simp only at hk <;> subst hk <;> simp only [completeRead, returned, handleRead, plainNumber, plainByte, h5, Option.getD_some] <;>
    refine ⟨_, rfl, ?_⟩
  · rw [beValue_toNat _ (by simp; exact (width_bounds hn).1), readBytes_range, numberOf_eq]
  · rw [beValue_toNat _ (by simp; exact (width_bounds hn).1), readBytes_range, numberOf_eq]
  · rw [beValue_toNat _ (by simp; exact (width_bounds hn).1), numberOf_eq]; congr 1; simp [Config.openBusFill]
  · rw [beValue_toNat _ (by rw [romBytes_length]; exact (width_bounds hn).1), romBytes_range, numberOf_eq]
    congr 1; apply List.map_congr_left; intro j _; unfold romByte; rw [show pa.toNat - lo + j = pa.toNat + j - lo by omega]

/-- The configurations a step runs in. -/
theorem config_iff {s : State} : configRefusal s = none ↔ mapWf s.map = true ∧ ∀ i : Fin 32, s.tlb[i].mask ∈ Config.pageMasks := by
  have key : (s.tlb.toList.all fun e => decide (e.mask ∈ Config.pageMasks)) = true ↔ ∀ i : Fin 32, s.tlb[i].mask ∈ Config.pageMasks := by
    rw [List.all_eq_true]
    constructor
    · intro h i
      have := h s.tlb[i] (by simp)
      simpa using this
    · intro h e he
      obtain ⟨j, hj, hje⟩ := List.mem_iff_getElem.mp he
      have hj32 : j < 32 := by simpa using hj
      have : e = s.tlb[(⟨j, hj32⟩ : Fin 32)] := by rw [← hje]; simp
      rw [this]; simpa using h ⟨j, hj32⟩
  unfold configRefusal
  rw [← key]
  cases mapWf s.map <;> cases (s.tlb.toList.all fun e => decide (e.mask ∈ Config.pageMasks)) <;> simp

/-- The system-control registers after stages 1 and 2. -/
theorem begin_cop0 (s : State) (i : Reg) : (beginStep s).cop0 i = if i = 9#5 then steppedCount s else if i = 1#5 then drawnRandom s else s.cop0 i := by
  unfold beginStep preExecute
  simp only
  rw [State.cop0_setCop0]
  split
  · unfold countValue steppedCount latchSlot
    have : s.cycles.getLsbD 0 = decide (s.cycles.toNat % 2 = 1) := by
      rw [← BitVec.testBit_toNat, Nat.testBit_eq_decide_div_mod_eq]; simp
    simp only [this, decide_eq_true_eq]; rfl
  · show (State.setCop0 (latchSlot s) 1#5 (randomValue (latchSlot s))).cop0 i = _
    rw [State.cop0_setCop0]; rfl

/-- The fields of a masked word. -/
theorem fields_and {w m e : Word} (h : w &&& m = e) :
    fieldOpcode w &&& fieldOpcode m = fieldOpcode e ∧ fieldRs w &&& fieldRs m = fieldRs e ∧ fieldRt w &&& fieldRt m = fieldRt e ∧
    fieldRd w &&& fieldRd m = fieldRd e ∧ fieldSa w &&& fieldSa m = fieldSa e ∧ fieldFunct w &&& fieldFunct m = fieldFunct e ∧ fieldImm w &&& fieldImm m = fieldImm e := by
  subst h
  refine ⟨?_, ?_, ?_, ?_, ?_, ?_, ?_⟩ <;> (apply BitVec.eq_of_getLsbD_eq; intro i hi; simp only [fieldOpcode, fieldRs, fieldRt, fieldRd, fieldSa, fieldFunct, fieldImm, BitVec.getLsbD_extractLsb', BitVec.getLsbD_and, hi, decide_true, Bool.true_and])

end Sys2Proof.Claims
end

