-- ==== Sys2Proof/Laws/PerInstr.lean ====
section
/-! SUPPORT. Per instruction: the word the encoder gives an instruction matches a row of the table, and that row builds the
instruction from it, so no operand bit is dropped (30_encoding.md R131). -/

/-- The encoded word of `i` matches a row, and that row builds `i` from it. -/
def Sys2Proof.Laws.EncodeRow.Statement (i : Sys2Proof.Instr) : Prop :=
  ∃ d ∈ Sys2Proof.table, d.matches (Sys2Proof.encode i) = true ∧ d.build (Sys2Proof.encode i) = i

namespace Sys2Proof.Laws

/-- From a row of the table, the encoded word, its mask equation and the row's builder. -/
theorem EncodeRow.ofRow {i : Instr} (k : Nat) {m e w : Word} {b : Word → Instr} (h : table[k]? = some ⟨m, e, b⟩)
    (hm : w &&& m = e) (hw : encode i = w) (hb : b w = i) : EncodeRow.Statement i :=
  ⟨⟨m, e, b⟩, List.mem_of_getElem? h, by simp [Descriptor.matches, hw, hm], by rw [hw]; exact hb⟩

theorem maskR (op op' rs rs' rt rt' rd rd' sa sa' fn fn') {m e : Word}
    (h : m = encodeR op' rs' rt' rd' sa' fn')
    (he : encodeR (op &&& op') (rs &&& rs') (rt &&& rt') (rd &&& rd') (sa &&& sa') (fn &&& fn') = e) :
    encodeR op rs rt rd sa fn &&& m = e := by rw [h, encodeR_and, he]

theorem maskI (op op' rs rs' rt rt' imm imm') {m e : Word} (h : m = encodeI op' rs' rt' imm')
    (he : encodeI (op &&& op') (rs &&& rs') (rt &&& rt') (imm &&& imm') = e) :
    encodeI op rs rt imm &&& m = e := by rw [h, encodeI_and, he]

theorem maskJ (op op' t t') {m e : Word} (h : m = encodeJ op' t') (he : encodeJ (op &&& op') (t &&& t') = e) :
    encodeJ op t &&& m = e := by rw [h, encodeJ_and, he]

theorem maskCode (op op' c c' fn fn') {m e : Word} (h : m = encodeCode op' c' fn')
    (he : encodeCode (op &&& op') (c &&& c') (fn &&& fn') = e) :
    encodeCode op c fn &&& m = e := by rw [h, encodeCode_and, he]

end Sys2Proof.Laws

theorem Sys2Proof.Laws.EncodeRow.nop : Sys2Proof.Laws.EncodeRow.Statement .nop :=
  Sys2Proof.Laws.EncodeRow.ofRow 0 rfl (Sys2Proof.Laws.maskR 0x00 0x3f 0 0x1f 0 0x1f 0 0x1f 0 0x1f 0x00 0x3f rfl (by simp; try rfl)) rfl rfl

theorem Sys2Proof.Laws.EncodeRow.b (offset : BitVec 16) : Sys2Proof.Laws.EncodeRow.Statement (.b offset) :=
  Sys2Proof.Laws.EncodeRow.ofRow 1 rfl (Sys2Proof.Laws.maskI 0x04 0x3f 0 0x1f 0 0x1f offset 0x0 rfl (by simp; try rfl)) rfl (by simp)

theorem Sys2Proof.Laws.EncodeRow.bRegimm (offset : BitVec 16) : Sys2Proof.Laws.EncodeRow.Statement (.bRegimm offset) :=
  Sys2Proof.Laws.EncodeRow.ofRow 2 rfl (Sys2Proof.Laws.maskI 0x01 0x3f 0 0x1f 1 0x1f offset 0x0 rfl (by simp; try rfl)) rfl (by simp)

theorem Sys2Proof.Laws.EncodeRow.sll (rd : Sys2Proof.Reg) (rt : Sys2Proof.Reg) (sa : BitVec 5) : Sys2Proof.Laws.EncodeRow.Statement (.sll rd rt sa) :=
  Sys2Proof.Laws.EncodeRow.ofRow 3 rfl (Sys2Proof.Laws.maskR 0x00 0x3f 0 0x1f rt 0x0 rd 0x0 sa 0x0 0x00 0x3f rfl (by simp; try rfl)) rfl (by simp)

theorem Sys2Proof.Laws.EncodeRow.srl (rd : Sys2Proof.Reg) (rt : Sys2Proof.Reg) (sa : BitVec 5) : Sys2Proof.Laws.EncodeRow.Statement (.srl rd rt sa) :=
  Sys2Proof.Laws.EncodeRow.ofRow 4 rfl (Sys2Proof.Laws.maskR 0x00 0x3f 0 0x1f rt 0x0 rd 0x0 sa 0x0 0x02 0x3f rfl (by simp; try rfl)) rfl (by simp)

theorem Sys2Proof.Laws.EncodeRow.sra (rd : Sys2Proof.Reg) (rt : Sys2Proof.Reg) (sa : BitVec 5) : Sys2Proof.Laws.EncodeRow.Statement (.sra rd rt sa) :=
  Sys2Proof.Laws.EncodeRow.ofRow 5 rfl (Sys2Proof.Laws.maskR 0x00 0x3f 0 0x1f rt 0x0 rd 0x0 sa 0x0 0x03 0x3f rfl (by simp; try rfl)) rfl (by simp)

theorem Sys2Proof.Laws.EncodeRow.sllv (rd : Sys2Proof.Reg) (rt : Sys2Proof.Reg) (rs : Sys2Proof.Reg) : Sys2Proof.Laws.EncodeRow.Statement (.sllv rd rt rs) :=
  Sys2Proof.Laws.EncodeRow.ofRow 6 rfl (Sys2Proof.Laws.maskR 0x00 0x3f rs 0x0 rt 0x0 rd 0x0 0 0x1f 0x04 0x3f rfl (by simp; try rfl)) rfl (by simp)

theorem Sys2Proof.Laws.EncodeRow.srlv (rd : Sys2Proof.Reg) (rt : Sys2Proof.Reg) (rs : Sys2Proof.Reg) : Sys2Proof.Laws.EncodeRow.Statement (.srlv rd rt rs) :=
  Sys2Proof.Laws.EncodeRow.ofRow 7 rfl (Sys2Proof.Laws.maskR 0x00 0x3f rs 0x0 rt 0x0 rd 0x0 0 0x1f 0x06 0x3f rfl (by simp; try rfl)) rfl (by simp)

theorem Sys2Proof.Laws.EncodeRow.srav (rd : Sys2Proof.Reg) (rt : Sys2Proof.Reg) (rs : Sys2Proof.Reg) : Sys2Proof.Laws.EncodeRow.Statement (.srav rd rt rs) :=
  Sys2Proof.Laws.EncodeRow.ofRow 8 rfl (Sys2Proof.Laws.maskR 0x00 0x3f rs 0x0 rt 0x0 rd 0x0 0 0x1f 0x07 0x3f rfl (by simp; try rfl)) rfl (by simp)

theorem Sys2Proof.Laws.EncodeRow.jr (rs : Sys2Proof.Reg) : Sys2Proof.Laws.EncodeRow.Statement (.jr rs) :=
  Sys2Proof.Laws.EncodeRow.ofRow 9 rfl (Sys2Proof.Laws.maskR 0x00 0x3f rs 0x0 0 0x1f 0 0x1f 0 0x1f 0x08 0x3f rfl (by simp; try rfl)) rfl (by simp)

theorem Sys2Proof.Laws.EncodeRow.jalr (rd : Sys2Proof.Reg) (rs : Sys2Proof.Reg) : Sys2Proof.Laws.EncodeRow.Statement (.jalr rd rs) :=
  Sys2Proof.Laws.EncodeRow.ofRow 10 rfl (Sys2Proof.Laws.maskR 0x00 0x3f rs 0x0 0 0x1f rd 0x0 0 0x1f 0x09 0x3f rfl (by simp; try rfl)) rfl (by simp)

theorem Sys2Proof.Laws.EncodeRow.syscall (code : BitVec 20) : Sys2Proof.Laws.EncodeRow.Statement (.syscall code) :=
  Sys2Proof.Laws.EncodeRow.ofRow 11 rfl (Sys2Proof.Laws.maskCode 0x00 0x3f code 0x0 0x0C 0x3f rfl (by simp; try rfl)) rfl (by simp)

theorem Sys2Proof.Laws.EncodeRow.breakI (code : BitVec 20) : Sys2Proof.Laws.EncodeRow.Statement (.breakI code) :=
  Sys2Proof.Laws.EncodeRow.ofRow 12 rfl (Sys2Proof.Laws.maskCode 0x00 0x3f code 0x0 0x0D 0x3f rfl (by simp; try rfl)) rfl (by simp)

theorem Sys2Proof.Laws.EncodeRow.sync : Sys2Proof.Laws.EncodeRow.Statement .sync :=
  Sys2Proof.Laws.EncodeRow.ofRow 13 rfl (Sys2Proof.Laws.maskR 0x00 0x3f 0 0x1f 0 0x1f 0 0x1f 0 0x1f 0x0F 0x3f rfl (by simp; try rfl)) rfl rfl

theorem Sys2Proof.Laws.EncodeRow.mfhi (rd : Sys2Proof.Reg) : Sys2Proof.Laws.EncodeRow.Statement (.mfhi rd) :=
  Sys2Proof.Laws.EncodeRow.ofRow 14 rfl (Sys2Proof.Laws.maskR 0x00 0x3f 0 0x1f 0 0x1f rd 0x0 0 0x1f 0x10 0x3f rfl (by simp; try rfl)) rfl (by simp)

theorem Sys2Proof.Laws.EncodeRow.mthi (rs : Sys2Proof.Reg) : Sys2Proof.Laws.EncodeRow.Statement (.mthi rs) :=
  Sys2Proof.Laws.EncodeRow.ofRow 15 rfl (Sys2Proof.Laws.maskR 0x00 0x3f rs 0x0 0 0x1f 0 0x1f 0 0x1f 0x11 0x3f rfl (by simp; try rfl)) rfl (by simp)

theorem Sys2Proof.Laws.EncodeRow.mflo (rd : Sys2Proof.Reg) : Sys2Proof.Laws.EncodeRow.Statement (.mflo rd) :=
  Sys2Proof.Laws.EncodeRow.ofRow 16 rfl (Sys2Proof.Laws.maskR 0x00 0x3f 0 0x1f 0 0x1f rd 0x0 0 0x1f 0x12 0x3f rfl (by simp; try rfl)) rfl (by simp)

theorem Sys2Proof.Laws.EncodeRow.mtlo (rs : Sys2Proof.Reg) : Sys2Proof.Laws.EncodeRow.Statement (.mtlo rs) :=
  Sys2Proof.Laws.EncodeRow.ofRow 17 rfl (Sys2Proof.Laws.maskR 0x00 0x3f rs 0x0 0 0x1f 0 0x1f 0 0x1f 0x13 0x3f rfl (by simp; try rfl)) rfl (by simp)

theorem Sys2Proof.Laws.EncodeRow.dsllv (rd : Sys2Proof.Reg) (rt : Sys2Proof.Reg) (rs : Sys2Proof.Reg) : Sys2Proof.Laws.EncodeRow.Statement (.dsllv rd rt rs) :=
  Sys2Proof.Laws.EncodeRow.ofRow 18 rfl (Sys2Proof.Laws.maskR 0x00 0x3f rs 0x0 rt 0x0 rd 0x0 0 0x1f 0x14 0x3f rfl (by simp; try rfl)) rfl (by simp)

theorem Sys2Proof.Laws.EncodeRow.dsrlv (rd : Sys2Proof.Reg) (rt : Sys2Proof.Reg) (rs : Sys2Proof.Reg) : Sys2Proof.Laws.EncodeRow.Statement (.dsrlv rd rt rs) :=
  Sys2Proof.Laws.EncodeRow.ofRow 19 rfl (Sys2Proof.Laws.maskR 0x00 0x3f rs 0x0 rt 0x0 rd 0x0 0 0x1f 0x16 0x3f rfl (by simp; try rfl)) rfl (by simp)

theorem Sys2Proof.Laws.EncodeRow.dsrav (rd : Sys2Proof.Reg) (rt : Sys2Proof.Reg) (rs : Sys2Proof.Reg) : Sys2Proof.Laws.EncodeRow.Statement (.dsrav rd rt rs) :=
  Sys2Proof.Laws.EncodeRow.ofRow 20 rfl (Sys2Proof.Laws.maskR 0x00 0x3f rs 0x0 rt 0x0 rd 0x0 0 0x1f 0x17 0x3f rfl (by simp; try rfl)) rfl (by simp)

theorem Sys2Proof.Laws.EncodeRow.mult (rs : Sys2Proof.Reg) (rt : Sys2Proof.Reg) : Sys2Proof.Laws.EncodeRow.Statement (.mult rs rt) :=
  Sys2Proof.Laws.EncodeRow.ofRow 21 rfl (Sys2Proof.Laws.maskR 0x00 0x3f rs 0x0 rt 0x0 0 0x1f 0 0x1f 0x18 0x3f rfl (by simp; try rfl)) rfl (by simp)

theorem Sys2Proof.Laws.EncodeRow.multu (rs : Sys2Proof.Reg) (rt : Sys2Proof.Reg) : Sys2Proof.Laws.EncodeRow.Statement (.multu rs rt) :=
  Sys2Proof.Laws.EncodeRow.ofRow 22 rfl (Sys2Proof.Laws.maskR 0x00 0x3f rs 0x0 rt 0x0 0 0x1f 0 0x1f 0x19 0x3f rfl (by simp; try rfl)) rfl (by simp)

theorem Sys2Proof.Laws.EncodeRow.div (rs : Sys2Proof.Reg) (rt : Sys2Proof.Reg) : Sys2Proof.Laws.EncodeRow.Statement (.div rs rt) :=
  Sys2Proof.Laws.EncodeRow.ofRow 23 rfl (Sys2Proof.Laws.maskR 0x00 0x3f rs 0x0 rt 0x0 0 0x1f 0 0x1f 0x1A 0x3f rfl (by simp; try rfl)) rfl (by simp)

theorem Sys2Proof.Laws.EncodeRow.divu (rs : Sys2Proof.Reg) (rt : Sys2Proof.Reg) : Sys2Proof.Laws.EncodeRow.Statement (.divu rs rt) :=
  Sys2Proof.Laws.EncodeRow.ofRow 24 rfl (Sys2Proof.Laws.maskR 0x00 0x3f rs 0x0 rt 0x0 0 0x1f 0 0x1f 0x1B 0x3f rfl (by simp; try rfl)) rfl (by simp)

theorem Sys2Proof.Laws.EncodeRow.add (rd : Sys2Proof.Reg) (rs : Sys2Proof.Reg) (rt : Sys2Proof.Reg) : Sys2Proof.Laws.EncodeRow.Statement (.add rd rs rt) :=
  Sys2Proof.Laws.EncodeRow.ofRow 25 rfl (Sys2Proof.Laws.maskR 0x00 0x3f rs 0x0 rt 0x0 rd 0x0 0 0x1f 0x20 0x3f rfl (by simp; try rfl)) rfl (by simp)

theorem Sys2Proof.Laws.EncodeRow.addu (rd : Sys2Proof.Reg) (rs : Sys2Proof.Reg) (rt : Sys2Proof.Reg) : Sys2Proof.Laws.EncodeRow.Statement (.addu rd rs rt) :=
  Sys2Proof.Laws.EncodeRow.ofRow 26 rfl (Sys2Proof.Laws.maskR 0x00 0x3f rs 0x0 rt 0x0 rd 0x0 0 0x1f 0x21 0x3f rfl (by simp; try rfl)) rfl (by simp)

theorem Sys2Proof.Laws.EncodeRow.sub (rd : Sys2Proof.Reg) (rs : Sys2Proof.Reg) (rt : Sys2Proof.Reg) : Sys2Proof.Laws.EncodeRow.Statement (.sub rd rs rt) :=
  Sys2Proof.Laws.EncodeRow.ofRow 27 rfl (Sys2Proof.Laws.maskR 0x00 0x3f rs 0x0 rt 0x0 rd 0x0 0 0x1f 0x22 0x3f rfl (by simp; try rfl)) rfl (by simp)

theorem Sys2Proof.Laws.EncodeRow.subu (rd : Sys2Proof.Reg) (rs : Sys2Proof.Reg) (rt : Sys2Proof.Reg) : Sys2Proof.Laws.EncodeRow.Statement (.subu rd rs rt) :=
  Sys2Proof.Laws.EncodeRow.ofRow 28 rfl (Sys2Proof.Laws.maskR 0x00 0x3f rs 0x0 rt 0x0 rd 0x0 0 0x1f 0x23 0x3f rfl (by simp; try rfl)) rfl (by simp)

theorem Sys2Proof.Laws.EncodeRow.and (rd : Sys2Proof.Reg) (rs : Sys2Proof.Reg) (rt : Sys2Proof.Reg) : Sys2Proof.Laws.EncodeRow.Statement (.and rd rs rt) :=
  Sys2Proof.Laws.EncodeRow.ofRow 29 rfl (Sys2Proof.Laws.maskR 0x00 0x3f rs 0x0 rt 0x0 rd 0x0 0 0x1f 0x24 0x3f rfl (by simp; try rfl)) rfl (by simp)

theorem Sys2Proof.Laws.EncodeRow.or (rd : Sys2Proof.Reg) (rs : Sys2Proof.Reg) (rt : Sys2Proof.Reg) : Sys2Proof.Laws.EncodeRow.Statement (.or rd rs rt) :=
  Sys2Proof.Laws.EncodeRow.ofRow 30 rfl (Sys2Proof.Laws.maskR 0x00 0x3f rs 0x0 rt 0x0 rd 0x0 0 0x1f 0x25 0x3f rfl (by simp; try rfl)) rfl (by simp)

theorem Sys2Proof.Laws.EncodeRow.xor (rd : Sys2Proof.Reg) (rs : Sys2Proof.Reg) (rt : Sys2Proof.Reg) : Sys2Proof.Laws.EncodeRow.Statement (.xor rd rs rt) :=
  Sys2Proof.Laws.EncodeRow.ofRow 31 rfl (Sys2Proof.Laws.maskR 0x00 0x3f rs 0x0 rt 0x0 rd 0x0 0 0x1f 0x26 0x3f rfl (by simp; try rfl)) rfl (by simp)

theorem Sys2Proof.Laws.EncodeRow.nor (rd : Sys2Proof.Reg) (rs : Sys2Proof.Reg) (rt : Sys2Proof.Reg) : Sys2Proof.Laws.EncodeRow.Statement (.nor rd rs rt) :=
  Sys2Proof.Laws.EncodeRow.ofRow 32 rfl (Sys2Proof.Laws.maskR 0x00 0x3f rs 0x0 rt 0x0 rd 0x0 0 0x1f 0x27 0x3f rfl (by simp; try rfl)) rfl (by simp)

theorem Sys2Proof.Laws.EncodeRow.slt (rd : Sys2Proof.Reg) (rs : Sys2Proof.Reg) (rt : Sys2Proof.Reg) : Sys2Proof.Laws.EncodeRow.Statement (.slt rd rs rt) :=
  Sys2Proof.Laws.EncodeRow.ofRow 33 rfl (Sys2Proof.Laws.maskR 0x00 0x3f rs 0x0 rt 0x0 rd 0x0 0 0x1f 0x2A 0x3f rfl (by simp; try rfl)) rfl (by simp)

theorem Sys2Proof.Laws.EncodeRow.sltu (rd : Sys2Proof.Reg) (rs : Sys2Proof.Reg) (rt : Sys2Proof.Reg) : Sys2Proof.Laws.EncodeRow.Statement (.sltu rd rs rt) :=
  Sys2Proof.Laws.EncodeRow.ofRow 34 rfl (Sys2Proof.Laws.maskR 0x00 0x3f rs 0x0 rt 0x0 rd 0x0 0 0x1f 0x2B 0x3f rfl (by simp; try rfl)) rfl (by simp)

theorem Sys2Proof.Laws.EncodeRow.dadd (rd : Sys2Proof.Reg) (rs : Sys2Proof.Reg) (rt : Sys2Proof.Reg) : Sys2Proof.Laws.EncodeRow.Statement (.dadd rd rs rt) :=
  Sys2Proof.Laws.EncodeRow.ofRow 35 rfl (Sys2Proof.Laws.maskR 0x00 0x3f rs 0x0 rt 0x0 rd 0x0 0 0x1f 0x2C 0x3f rfl (by simp; try rfl)) rfl (by simp)

theorem Sys2Proof.Laws.EncodeRow.daddu (rd : Sys2Proof.Reg) (rs : Sys2Proof.Reg) (rt : Sys2Proof.Reg) : Sys2Proof.Laws.EncodeRow.Statement (.daddu rd rs rt) :=
  Sys2Proof.Laws.EncodeRow.ofRow 36 rfl (Sys2Proof.Laws.maskR 0x00 0x3f rs 0x0 rt 0x0 rd 0x0 0 0x1f 0x2D 0x3f rfl (by simp; try rfl)) rfl (by simp)

theorem Sys2Proof.Laws.EncodeRow.dsub (rd : Sys2Proof.Reg) (rs : Sys2Proof.Reg) (rt : Sys2Proof.Reg) : Sys2Proof.Laws.EncodeRow.Statement (.dsub rd rs rt) :=
  Sys2Proof.Laws.EncodeRow.ofRow 37 rfl (Sys2Proof.Laws.maskR 0x00 0x3f rs 0x0 rt 0x0 rd 0x0 0 0x1f 0x2E 0x3f rfl (by simp; try rfl)) rfl (by simp)

theorem Sys2Proof.Laws.EncodeRow.dsubu (rd : Sys2Proof.Reg) (rs : Sys2Proof.Reg) (rt : Sys2Proof.Reg) : Sys2Proof.Laws.EncodeRow.Statement (.dsubu rd rs rt) :=
  Sys2Proof.Laws.EncodeRow.ofRow 38 rfl (Sys2Proof.Laws.maskR 0x00 0x3f rs 0x0 rt 0x0 rd 0x0 0 0x1f 0x2F 0x3f rfl (by simp; try rfl)) rfl (by simp)

theorem Sys2Proof.Laws.EncodeRow.dsll (rd : Sys2Proof.Reg) (rt : Sys2Proof.Reg) (sa : BitVec 5) : Sys2Proof.Laws.EncodeRow.Statement (.dsll rd rt sa) :=
  Sys2Proof.Laws.EncodeRow.ofRow 39 rfl (Sys2Proof.Laws.maskR 0x00 0x3f 0 0x1f rt 0x0 rd 0x0 sa 0x0 0x38 0x3f rfl (by simp; try rfl)) rfl (by simp)

theorem Sys2Proof.Laws.EncodeRow.dsrl (rd : Sys2Proof.Reg) (rt : Sys2Proof.Reg) (sa : BitVec 5) : Sys2Proof.Laws.EncodeRow.Statement (.dsrl rd rt sa) :=
  Sys2Proof.Laws.EncodeRow.ofRow 40 rfl (Sys2Proof.Laws.maskR 0x00 0x3f 0 0x1f rt 0x0 rd 0x0 sa 0x0 0x3A 0x3f rfl (by simp; try rfl)) rfl (by simp)

theorem Sys2Proof.Laws.EncodeRow.dsra (rd : Sys2Proof.Reg) (rt : Sys2Proof.Reg) (sa : BitVec 5) : Sys2Proof.Laws.EncodeRow.Statement (.dsra rd rt sa) :=
  Sys2Proof.Laws.EncodeRow.ofRow 41 rfl (Sys2Proof.Laws.maskR 0x00 0x3f 0 0x1f rt 0x0 rd 0x0 sa 0x0 0x3B 0x3f rfl (by simp; try rfl)) rfl (by simp)

theorem Sys2Proof.Laws.EncodeRow.dsll32 (rd : Sys2Proof.Reg) (rt : Sys2Proof.Reg) (sa : BitVec 5) : Sys2Proof.Laws.EncodeRow.Statement (.dsll32 rd rt sa) :=
  Sys2Proof.Laws.EncodeRow.ofRow 42 rfl (Sys2Proof.Laws.maskR 0x00 0x3f 0 0x1f rt 0x0 rd 0x0 sa 0x0 0x3C 0x3f rfl (by simp; try rfl)) rfl (by simp)

theorem Sys2Proof.Laws.EncodeRow.dsrl32 (rd : Sys2Proof.Reg) (rt : Sys2Proof.Reg) (sa : BitVec 5) : Sys2Proof.Laws.EncodeRow.Statement (.dsrl32 rd rt sa) :=
  Sys2Proof.Laws.EncodeRow.ofRow 43 rfl (Sys2Proof.Laws.maskR 0x00 0x3f 0 0x1f rt 0x0 rd 0x0 sa 0x0 0x3E 0x3f rfl (by simp; try rfl)) rfl (by simp)

theorem Sys2Proof.Laws.EncodeRow.dsra32 (rd : Sys2Proof.Reg) (rt : Sys2Proof.Reg) (sa : BitVec 5) : Sys2Proof.Laws.EncodeRow.Statement (.dsra32 rd rt sa) :=
  Sys2Proof.Laws.EncodeRow.ofRow 44 rfl (Sys2Proof.Laws.maskR 0x00 0x3f 0 0x1f rt 0x0 rd 0x0 sa 0x0 0x3F 0x3f rfl (by simp; try rfl)) rfl (by simp)

theorem Sys2Proof.Laws.EncodeRow.bltz (rs : Sys2Proof.Reg) (offset : BitVec 16) : Sys2Proof.Laws.EncodeRow.Statement (.bltz rs offset) :=
  Sys2Proof.Laws.EncodeRow.ofRow 45 rfl (Sys2Proof.Laws.maskI 0x01 0x3f rs 0x0 0 0x1f offset 0x0 rfl (by simp; try rfl)) rfl (by simp)

theorem Sys2Proof.Laws.EncodeRow.bgez (rs : Sys2Proof.Reg) (offset : BitVec 16) : Sys2Proof.Laws.EncodeRow.Statement (.bgez rs offset) :=
  Sys2Proof.Laws.EncodeRow.ofRow 46 rfl (Sys2Proof.Laws.maskI 0x01 0x3f rs 0x0 1 0x1f offset 0x0 rfl (by simp; try rfl)) rfl (by simp)

theorem Sys2Proof.Laws.EncodeRow.bltzl (rs : Sys2Proof.Reg) (offset : BitVec 16) : Sys2Proof.Laws.EncodeRow.Statement (.bltzl rs offset) :=
  Sys2Proof.Laws.EncodeRow.ofRow 47 rfl (Sys2Proof.Laws.maskI 0x01 0x3f rs 0x0 2 0x1f offset 0x0 rfl (by simp; try rfl)) rfl (by simp)

theorem Sys2Proof.Laws.EncodeRow.bgezl (rs : Sys2Proof.Reg) (offset : BitVec 16) : Sys2Proof.Laws.EncodeRow.Statement (.bgezl rs offset) :=
  Sys2Proof.Laws.EncodeRow.ofRow 48 rfl (Sys2Proof.Laws.maskI 0x01 0x3f rs 0x0 3 0x1f offset 0x0 rfl (by simp; try rfl)) rfl (by simp)

theorem Sys2Proof.Laws.EncodeRow.bltzal (rs : Sys2Proof.Reg) (offset : BitVec 16) : Sys2Proof.Laws.EncodeRow.Statement (.bltzal rs offset) :=
  Sys2Proof.Laws.EncodeRow.ofRow 49 rfl (Sys2Proof.Laws.maskI 0x01 0x3f rs 0x0 16 0x1f offset 0x0 rfl (by simp; try rfl)) rfl (by simp)

theorem Sys2Proof.Laws.EncodeRow.bgezal (rs : Sys2Proof.Reg) (offset : BitVec 16) : Sys2Proof.Laws.EncodeRow.Statement (.bgezal rs offset) :=
  Sys2Proof.Laws.EncodeRow.ofRow 50 rfl (Sys2Proof.Laws.maskI 0x01 0x3f rs 0x0 17 0x1f offset 0x0 rfl (by simp; try rfl)) rfl (by simp)

theorem Sys2Proof.Laws.EncodeRow.bltzall (rs : Sys2Proof.Reg) (offset : BitVec 16) : Sys2Proof.Laws.EncodeRow.Statement (.bltzall rs offset) :=
  Sys2Proof.Laws.EncodeRow.ofRow 51 rfl (Sys2Proof.Laws.maskI 0x01 0x3f rs 0x0 18 0x1f offset 0x0 rfl (by simp; try rfl)) rfl (by simp)

theorem Sys2Proof.Laws.EncodeRow.bgezall (rs : Sys2Proof.Reg) (offset : BitVec 16) : Sys2Proof.Laws.EncodeRow.Statement (.bgezall rs offset) :=
  Sys2Proof.Laws.EncodeRow.ofRow 52 rfl (Sys2Proof.Laws.maskI 0x01 0x3f rs 0x0 19 0x1f offset 0x0 rfl (by simp; try rfl)) rfl (by simp)

theorem Sys2Proof.Laws.EncodeRow.j (target : BitVec 26) : Sys2Proof.Laws.EncodeRow.Statement (.j target) :=
  Sys2Proof.Laws.EncodeRow.ofRow 53 rfl (Sys2Proof.Laws.maskJ 0x02 0x3f target 0x0 rfl (by simp; try rfl)) rfl (by simp)

theorem Sys2Proof.Laws.EncodeRow.jal (target : BitVec 26) : Sys2Proof.Laws.EncodeRow.Statement (.jal target) :=
  Sys2Proof.Laws.EncodeRow.ofRow 54 rfl (Sys2Proof.Laws.maskJ 0x03 0x3f target 0x0 rfl (by simp; try rfl)) rfl (by simp)

theorem Sys2Proof.Laws.EncodeRow.beq (rs : Sys2Proof.Reg) (rt : Sys2Proof.Reg) (offset : BitVec 16) : Sys2Proof.Laws.EncodeRow.Statement (.beq rs rt offset) :=
  Sys2Proof.Laws.EncodeRow.ofRow 55 rfl (Sys2Proof.Laws.maskI 0x04 0x3f rs 0x0 rt 0x0 offset 0x0 rfl (by simp; try rfl)) rfl (by simp)

theorem Sys2Proof.Laws.EncodeRow.bne (rs : Sys2Proof.Reg) (rt : Sys2Proof.Reg) (offset : BitVec 16) : Sys2Proof.Laws.EncodeRow.Statement (.bne rs rt offset) :=
  Sys2Proof.Laws.EncodeRow.ofRow 56 rfl (Sys2Proof.Laws.maskI 0x05 0x3f rs 0x0 rt 0x0 offset 0x0 rfl (by simp; try rfl)) rfl (by simp)

theorem Sys2Proof.Laws.EncodeRow.blez (rs : Sys2Proof.Reg) (offset : BitVec 16) : Sys2Proof.Laws.EncodeRow.Statement (.blez rs offset) :=
  Sys2Proof.Laws.EncodeRow.ofRow 57 rfl (Sys2Proof.Laws.maskI 0x06 0x3f rs 0x0 0 0x1f offset 0x0 rfl (by simp; try rfl)) rfl (by simp)

theorem Sys2Proof.Laws.EncodeRow.bgtz (rs : Sys2Proof.Reg) (offset : BitVec 16) : Sys2Proof.Laws.EncodeRow.Statement (.bgtz rs offset) :=
  Sys2Proof.Laws.EncodeRow.ofRow 58 rfl (Sys2Proof.Laws.maskI 0x07 0x3f rs 0x0 0 0x1f offset 0x0 rfl (by simp; try rfl)) rfl (by simp)

theorem Sys2Proof.Laws.EncodeRow.addi (rt : Sys2Proof.Reg) (rs : Sys2Proof.Reg) (imm : BitVec 16) : Sys2Proof.Laws.EncodeRow.Statement (.addi rt rs imm) :=
  Sys2Proof.Laws.EncodeRow.ofRow 59 rfl (Sys2Proof.Laws.maskI 0x08 0x3f rs 0x0 rt 0x0 imm 0x0 rfl (by simp; try rfl)) rfl (by simp)

theorem Sys2Proof.Laws.EncodeRow.addiu (rt : Sys2Proof.Reg) (rs : Sys2Proof.Reg) (imm : BitVec 16) : Sys2Proof.Laws.EncodeRow.Statement (.addiu rt rs imm) :=
  Sys2Proof.Laws.EncodeRow.ofRow 60 rfl (Sys2Proof.Laws.maskI 0x09 0x3f rs 0x0 rt 0x0 imm 0x0 rfl (by simp; try rfl)) rfl (by simp)

theorem Sys2Proof.Laws.EncodeRow.slti (rt : Sys2Proof.Reg) (rs : Sys2Proof.Reg) (imm : BitVec 16) : Sys2Proof.Laws.EncodeRow.Statement (.slti rt rs imm) :=
  Sys2Proof.Laws.EncodeRow.ofRow 61 rfl (Sys2Proof.Laws.maskI 0x0A 0x3f rs 0x0 rt 0x0 imm 0x0 rfl (by simp; try rfl)) rfl (by simp)

theorem Sys2Proof.Laws.EncodeRow.sltiu (rt : Sys2Proof.Reg) (rs : Sys2Proof.Reg) (imm : BitVec 16) : Sys2Proof.Laws.EncodeRow.Statement (.sltiu rt rs imm) :=
  Sys2Proof.Laws.EncodeRow.ofRow 62 rfl (Sys2Proof.Laws.maskI 0x0B 0x3f rs 0x0 rt 0x0 imm 0x0 rfl (by simp; try rfl)) rfl (by simp)

theorem Sys2Proof.Laws.EncodeRow.andi (rt : Sys2Proof.Reg) (rs : Sys2Proof.Reg) (imm : BitVec 16) : Sys2Proof.Laws.EncodeRow.Statement (.andi rt rs imm) :=
  Sys2Proof.Laws.EncodeRow.ofRow 63 rfl (Sys2Proof.Laws.maskI 0x0C 0x3f rs 0x0 rt 0x0 imm 0x0 rfl (by simp; try rfl)) rfl (by simp)

theorem Sys2Proof.Laws.EncodeRow.ori (rt : Sys2Proof.Reg) (rs : Sys2Proof.Reg) (imm : BitVec 16) : Sys2Proof.Laws.EncodeRow.Statement (.ori rt rs imm) :=
  Sys2Proof.Laws.EncodeRow.ofRow 64 rfl (Sys2Proof.Laws.maskI 0x0D 0x3f rs 0x0 rt 0x0 imm 0x0 rfl (by simp; try rfl)) rfl (by simp)

theorem Sys2Proof.Laws.EncodeRow.xori (rt : Sys2Proof.Reg) (rs : Sys2Proof.Reg) (imm : BitVec 16) : Sys2Proof.Laws.EncodeRow.Statement (.xori rt rs imm) :=
  Sys2Proof.Laws.EncodeRow.ofRow 65 rfl (Sys2Proof.Laws.maskI 0x0E 0x3f rs 0x0 rt 0x0 imm 0x0 rfl (by simp; try rfl)) rfl (by simp)

theorem Sys2Proof.Laws.EncodeRow.lui (rt : Sys2Proof.Reg) (imm : BitVec 16) : Sys2Proof.Laws.EncodeRow.Statement (.lui rt imm) :=
  Sys2Proof.Laws.EncodeRow.ofRow 66 rfl (Sys2Proof.Laws.maskI 0x0F 0x3f 0 0x1f rt 0x0 imm 0x0 rfl (by simp; try rfl)) rfl (by simp)

theorem Sys2Proof.Laws.EncodeRow.mfc0 (rt : Sys2Proof.Reg) (rd : Sys2Proof.Reg) : Sys2Proof.Laws.EncodeRow.Statement (.mfc0 rt rd) :=
  Sys2Proof.Laws.EncodeRow.ofRow 67 rfl (Sys2Proof.Laws.maskR 0x10 0x3f 0 0x1f rt 0x0 rd 0x0 0 0x1f 0x00 0x3f rfl (by simp; try rfl)) rfl (by simp)

theorem Sys2Proof.Laws.EncodeRow.dmfc0 (rt : Sys2Proof.Reg) (rd : Sys2Proof.Reg) : Sys2Proof.Laws.EncodeRow.Statement (.dmfc0 rt rd) :=
  Sys2Proof.Laws.EncodeRow.ofRow 68 rfl (Sys2Proof.Laws.maskR 0x10 0x3f 1 0x1f rt 0x0 rd 0x0 0 0x1f 0x00 0x3f rfl (by simp; try rfl)) rfl (by simp)

theorem Sys2Proof.Laws.EncodeRow.mtc0 (rt : Sys2Proof.Reg) (rd : Sys2Proof.Reg) : Sys2Proof.Laws.EncodeRow.Statement (.mtc0 rt rd) :=
  Sys2Proof.Laws.EncodeRow.ofRow 69 rfl (Sys2Proof.Laws.maskR 0x10 0x3f 4 0x1f rt 0x0 rd 0x0 0 0x1f 0x00 0x3f rfl (by simp; try rfl)) rfl (by simp)

theorem Sys2Proof.Laws.EncodeRow.dmtc0 (rt : Sys2Proof.Reg) (rd : Sys2Proof.Reg) : Sys2Proof.Laws.EncodeRow.Statement (.dmtc0 rt rd) :=
  Sys2Proof.Laws.EncodeRow.ofRow 70 rfl (Sys2Proof.Laws.maskR 0x10 0x3f 5 0x1f rt 0x0 rd 0x0 0 0x1f 0x00 0x3f rfl (by simp; try rfl)) rfl (by simp)

theorem Sys2Proof.Laws.EncodeRow.tlbr : Sys2Proof.Laws.EncodeRow.Statement .tlbr :=
  Sys2Proof.Laws.EncodeRow.ofRow 71 rfl (Sys2Proof.Laws.maskR 0x10 0x3f 16 0x1f 0 0x1f 0 0x1f 0 0x1f 0x01 0x3f rfl (by simp; try rfl)) rfl rfl

theorem Sys2Proof.Laws.EncodeRow.tlbwi : Sys2Proof.Laws.EncodeRow.Statement .tlbwi :=
  Sys2Proof.Laws.EncodeRow.ofRow 72 rfl (Sys2Proof.Laws.maskR 0x10 0x3f 16 0x1f 0 0x1f 0 0x1f 0 0x1f 0x02 0x3f rfl (by simp; try rfl)) rfl rfl

theorem Sys2Proof.Laws.EncodeRow.tlbwr : Sys2Proof.Laws.EncodeRow.Statement .tlbwr :=
  Sys2Proof.Laws.EncodeRow.ofRow 73 rfl (Sys2Proof.Laws.maskR 0x10 0x3f 16 0x1f 0 0x1f 0 0x1f 0 0x1f 0x06 0x3f rfl (by simp; try rfl)) rfl rfl

theorem Sys2Proof.Laws.EncodeRow.tlbp : Sys2Proof.Laws.EncodeRow.Statement .tlbp :=
  Sys2Proof.Laws.EncodeRow.ofRow 74 rfl (Sys2Proof.Laws.maskR 0x10 0x3f 16 0x1f 0 0x1f 0 0x1f 0 0x1f 0x08 0x3f rfl (by simp; try rfl)) rfl rfl

theorem Sys2Proof.Laws.EncodeRow.eret : Sys2Proof.Laws.EncodeRow.Statement .eret :=
  Sys2Proof.Laws.EncodeRow.ofRow 75 rfl (Sys2Proof.Laws.maskR 0x10 0x3f 16 0x1f 0 0x1f 0 0x1f 0 0x1f 0x18 0x3f rfl (by simp; try rfl)) rfl rfl

theorem Sys2Proof.Laws.EncodeRow.cop1 (cofun : BitVec 26) : Sys2Proof.Laws.EncodeRow.Statement (.cop1 cofun) :=
  Sys2Proof.Laws.EncodeRow.ofRow 76 rfl (Sys2Proof.Laws.maskJ 0x11 0x3f cofun 0x0 rfl (by simp; try rfl)) rfl (by simp)

theorem Sys2Proof.Laws.EncodeRow.beql (rs : Sys2Proof.Reg) (rt : Sys2Proof.Reg) (offset : BitVec 16) : Sys2Proof.Laws.EncodeRow.Statement (.beql rs rt offset) :=
  Sys2Proof.Laws.EncodeRow.ofRow 77 rfl (Sys2Proof.Laws.maskI 0x14 0x3f rs 0x0 rt 0x0 offset 0x0 rfl (by simp; try rfl)) rfl (by simp)

theorem Sys2Proof.Laws.EncodeRow.bnel (rs : Sys2Proof.Reg) (rt : Sys2Proof.Reg) (offset : BitVec 16) : Sys2Proof.Laws.EncodeRow.Statement (.bnel rs rt offset) :=
  Sys2Proof.Laws.EncodeRow.ofRow 78 rfl (Sys2Proof.Laws.maskI 0x15 0x3f rs 0x0 rt 0x0 offset 0x0 rfl (by simp; try rfl)) rfl (by simp)

theorem Sys2Proof.Laws.EncodeRow.blezl (rs : Sys2Proof.Reg) (offset : BitVec 16) : Sys2Proof.Laws.EncodeRow.Statement (.blezl rs offset) :=
  Sys2Proof.Laws.EncodeRow.ofRow 79 rfl (Sys2Proof.Laws.maskI 0x16 0x3f rs 0x0 0 0x1f offset 0x0 rfl (by simp; try rfl)) rfl (by simp)

theorem Sys2Proof.Laws.EncodeRow.bgtzl (rs : Sys2Proof.Reg) (offset : BitVec 16) : Sys2Proof.Laws.EncodeRow.Statement (.bgtzl rs offset) :=
  Sys2Proof.Laws.EncodeRow.ofRow 80 rfl (Sys2Proof.Laws.maskI 0x17 0x3f rs 0x0 0 0x1f offset 0x0 rfl (by simp; try rfl)) rfl (by simp)

theorem Sys2Proof.Laws.EncodeRow.daddi (rt : Sys2Proof.Reg) (rs : Sys2Proof.Reg) (imm : BitVec 16) : Sys2Proof.Laws.EncodeRow.Statement (.daddi rt rs imm) :=
  Sys2Proof.Laws.EncodeRow.ofRow 81 rfl (Sys2Proof.Laws.maskI 0x18 0x3f rs 0x0 rt 0x0 imm 0x0 rfl (by simp; try rfl)) rfl (by simp)

theorem Sys2Proof.Laws.EncodeRow.daddiu (rt : Sys2Proof.Reg) (rs : Sys2Proof.Reg) (imm : BitVec 16) : Sys2Proof.Laws.EncodeRow.Statement (.daddiu rt rs imm) :=
  Sys2Proof.Laws.EncodeRow.ofRow 82 rfl (Sys2Proof.Laws.maskI 0x19 0x3f rs 0x0 rt 0x0 imm 0x0 rfl (by simp; try rfl)) rfl (by simp)

theorem Sys2Proof.Laws.EncodeRow.ldl (rt : Sys2Proof.Reg) (offset : BitVec 16) (base : Sys2Proof.Reg) : Sys2Proof.Laws.EncodeRow.Statement (.ldl rt offset base) :=
  Sys2Proof.Laws.EncodeRow.ofRow 83 rfl (Sys2Proof.Laws.maskI 0x1A 0x3f base 0x0 rt 0x0 offset 0x0 rfl (by simp; try rfl)) rfl (by simp)

theorem Sys2Proof.Laws.EncodeRow.ldr (rt : Sys2Proof.Reg) (offset : BitVec 16) (base : Sys2Proof.Reg) : Sys2Proof.Laws.EncodeRow.Statement (.ldr rt offset base) :=
  Sys2Proof.Laws.EncodeRow.ofRow 84 rfl (Sys2Proof.Laws.maskI 0x1B 0x3f base 0x0 rt 0x0 offset 0x0 rfl (by simp; try rfl)) rfl (by simp)

theorem Sys2Proof.Laws.EncodeRow.lb (rt : Sys2Proof.Reg) (offset : BitVec 16) (base : Sys2Proof.Reg) : Sys2Proof.Laws.EncodeRow.Statement (.lb rt offset base) :=
  Sys2Proof.Laws.EncodeRow.ofRow 85 rfl (Sys2Proof.Laws.maskI 0x20 0x3f base 0x0 rt 0x0 offset 0x0 rfl (by simp; try rfl)) rfl (by simp)

theorem Sys2Proof.Laws.EncodeRow.lh (rt : Sys2Proof.Reg) (offset : BitVec 16) (base : Sys2Proof.Reg) : Sys2Proof.Laws.EncodeRow.Statement (.lh rt offset base) :=
  Sys2Proof.Laws.EncodeRow.ofRow 86 rfl (Sys2Proof.Laws.maskI 0x21 0x3f base 0x0 rt 0x0 offset 0x0 rfl (by simp; try rfl)) rfl (by simp)

theorem Sys2Proof.Laws.EncodeRow.lwl (rt : Sys2Proof.Reg) (offset : BitVec 16) (base : Sys2Proof.Reg) : Sys2Proof.Laws.EncodeRow.Statement (.lwl rt offset base) :=
  Sys2Proof.Laws.EncodeRow.ofRow 87 rfl (Sys2Proof.Laws.maskI 0x22 0x3f base 0x0 rt 0x0 offset 0x0 rfl (by simp; try rfl)) rfl (by simp)

theorem Sys2Proof.Laws.EncodeRow.lw (rt : Sys2Proof.Reg) (offset : BitVec 16) (base : Sys2Proof.Reg) : Sys2Proof.Laws.EncodeRow.Statement (.lw rt offset base) :=
  Sys2Proof.Laws.EncodeRow.ofRow 88 rfl (Sys2Proof.Laws.maskI 0x23 0x3f base 0x0 rt 0x0 offset 0x0 rfl (by simp; try rfl)) rfl (by simp)

theorem Sys2Proof.Laws.EncodeRow.lbu (rt : Sys2Proof.Reg) (offset : BitVec 16) (base : Sys2Proof.Reg) : Sys2Proof.Laws.EncodeRow.Statement (.lbu rt offset base) :=
  Sys2Proof.Laws.EncodeRow.ofRow 89 rfl (Sys2Proof.Laws.maskI 0x24 0x3f base 0x0 rt 0x0 offset 0x0 rfl (by simp; try rfl)) rfl (by simp)

theorem Sys2Proof.Laws.EncodeRow.lhu (rt : Sys2Proof.Reg) (offset : BitVec 16) (base : Sys2Proof.Reg) : Sys2Proof.Laws.EncodeRow.Statement (.lhu rt offset base) :=
  Sys2Proof.Laws.EncodeRow.ofRow 90 rfl (Sys2Proof.Laws.maskI 0x25 0x3f base 0x0 rt 0x0 offset 0x0 rfl (by simp; try rfl)) rfl (by simp)

theorem Sys2Proof.Laws.EncodeRow.lwr (rt : Sys2Proof.Reg) (offset : BitVec 16) (base : Sys2Proof.Reg) : Sys2Proof.Laws.EncodeRow.Statement (.lwr rt offset base) :=
  Sys2Proof.Laws.EncodeRow.ofRow 91 rfl (Sys2Proof.Laws.maskI 0x26 0x3f base 0x0 rt 0x0 offset 0x0 rfl (by simp; try rfl)) rfl (by simp)

theorem Sys2Proof.Laws.EncodeRow.lwu (rt : Sys2Proof.Reg) (offset : BitVec 16) (base : Sys2Proof.Reg) : Sys2Proof.Laws.EncodeRow.Statement (.lwu rt offset base) :=
  Sys2Proof.Laws.EncodeRow.ofRow 92 rfl (Sys2Proof.Laws.maskI 0x27 0x3f base 0x0 rt 0x0 offset 0x0 rfl (by simp; try rfl)) rfl (by simp)

theorem Sys2Proof.Laws.EncodeRow.sb (rt : Sys2Proof.Reg) (offset : BitVec 16) (base : Sys2Proof.Reg) : Sys2Proof.Laws.EncodeRow.Statement (.sb rt offset base) :=
  Sys2Proof.Laws.EncodeRow.ofRow 93 rfl (Sys2Proof.Laws.maskI 0x28 0x3f base 0x0 rt 0x0 offset 0x0 rfl (by simp; try rfl)) rfl (by simp)

theorem Sys2Proof.Laws.EncodeRow.sh (rt : Sys2Proof.Reg) (offset : BitVec 16) (base : Sys2Proof.Reg) : Sys2Proof.Laws.EncodeRow.Statement (.sh rt offset base) :=
  Sys2Proof.Laws.EncodeRow.ofRow 94 rfl (Sys2Proof.Laws.maskI 0x29 0x3f base 0x0 rt 0x0 offset 0x0 rfl (by simp; try rfl)) rfl (by simp)

theorem Sys2Proof.Laws.EncodeRow.swl (rt : Sys2Proof.Reg) (offset : BitVec 16) (base : Sys2Proof.Reg) : Sys2Proof.Laws.EncodeRow.Statement (.swl rt offset base) :=
  Sys2Proof.Laws.EncodeRow.ofRow 95 rfl (Sys2Proof.Laws.maskI 0x2A 0x3f base 0x0 rt 0x0 offset 0x0 rfl (by simp; try rfl)) rfl (by simp)

theorem Sys2Proof.Laws.EncodeRow.sw (rt : Sys2Proof.Reg) (offset : BitVec 16) (base : Sys2Proof.Reg) : Sys2Proof.Laws.EncodeRow.Statement (.sw rt offset base) :=
  Sys2Proof.Laws.EncodeRow.ofRow 96 rfl (Sys2Proof.Laws.maskI 0x2B 0x3f base 0x0 rt 0x0 offset 0x0 rfl (by simp; try rfl)) rfl (by simp)

theorem Sys2Proof.Laws.EncodeRow.sdl (rt : Sys2Proof.Reg) (offset : BitVec 16) (base : Sys2Proof.Reg) : Sys2Proof.Laws.EncodeRow.Statement (.sdl rt offset base) :=
  Sys2Proof.Laws.EncodeRow.ofRow 97 rfl (Sys2Proof.Laws.maskI 0x2C 0x3f base 0x0 rt 0x0 offset 0x0 rfl (by simp; try rfl)) rfl (by simp)

theorem Sys2Proof.Laws.EncodeRow.sdr (rt : Sys2Proof.Reg) (offset : BitVec 16) (base : Sys2Proof.Reg) : Sys2Proof.Laws.EncodeRow.Statement (.sdr rt offset base) :=
  Sys2Proof.Laws.EncodeRow.ofRow 98 rfl (Sys2Proof.Laws.maskI 0x2D 0x3f base 0x0 rt 0x0 offset 0x0 rfl (by simp; try rfl)) rfl (by simp)

theorem Sys2Proof.Laws.EncodeRow.swr (rt : Sys2Proof.Reg) (offset : BitVec 16) (base : Sys2Proof.Reg) : Sys2Proof.Laws.EncodeRow.Statement (.swr rt offset base) :=
  Sys2Proof.Laws.EncodeRow.ofRow 99 rfl (Sys2Proof.Laws.maskI 0x2E 0x3f base 0x0 rt 0x0 offset 0x0 rfl (by simp; try rfl)) rfl (by simp)

theorem Sys2Proof.Laws.EncodeRow.cache (op : BitVec 5) (offset : BitVec 16) (base : Sys2Proof.Reg) : Sys2Proof.Laws.EncodeRow.Statement (.cache op offset base) :=
  Sys2Proof.Laws.EncodeRow.ofRow 100 rfl (Sys2Proof.Laws.maskI 0x2F 0x3f base 0x0 op 0x0 offset 0x0 rfl (by simp; try rfl)) rfl (by simp)

theorem Sys2Proof.Laws.EncodeRow.lwc1 (ft : Sys2Proof.Reg) (offset : BitVec 16) (base : Sys2Proof.Reg) : Sys2Proof.Laws.EncodeRow.Statement (.lwc1 ft offset base) :=
  Sys2Proof.Laws.EncodeRow.ofRow 101 rfl (Sys2Proof.Laws.maskI 0x31 0x3f base 0x0 ft 0x0 offset 0x0 rfl (by simp; try rfl)) rfl (by simp)

theorem Sys2Proof.Laws.EncodeRow.ldc1 (ft : Sys2Proof.Reg) (offset : BitVec 16) (base : Sys2Proof.Reg) : Sys2Proof.Laws.EncodeRow.Statement (.ldc1 ft offset base) :=
  Sys2Proof.Laws.EncodeRow.ofRow 102 rfl (Sys2Proof.Laws.maskI 0x35 0x3f base 0x0 ft 0x0 offset 0x0 rfl (by simp; try rfl)) rfl (by simp)

theorem Sys2Proof.Laws.EncodeRow.ld (rt : Sys2Proof.Reg) (offset : BitVec 16) (base : Sys2Proof.Reg) : Sys2Proof.Laws.EncodeRow.Statement (.ld rt offset base) :=
  Sys2Proof.Laws.EncodeRow.ofRow 103 rfl (Sys2Proof.Laws.maskI 0x37 0x3f base 0x0 rt 0x0 offset 0x0 rfl (by simp; try rfl)) rfl (by simp)

theorem Sys2Proof.Laws.EncodeRow.swc1 (ft : Sys2Proof.Reg) (offset : BitVec 16) (base : Sys2Proof.Reg) : Sys2Proof.Laws.EncodeRow.Statement (.swc1 ft offset base) :=
  Sys2Proof.Laws.EncodeRow.ofRow 104 rfl (Sys2Proof.Laws.maskI 0x39 0x3f base 0x0 ft 0x0 offset 0x0 rfl (by simp; try rfl)) rfl (by simp)

theorem Sys2Proof.Laws.EncodeRow.sdc1 (ft : Sys2Proof.Reg) (offset : BitVec 16) (base : Sys2Proof.Reg) : Sys2Proof.Laws.EncodeRow.Statement (.sdc1 ft offset base) :=
  Sys2Proof.Laws.EncodeRow.ofRow 105 rfl (Sys2Proof.Laws.maskI 0x3D 0x3f base 0x0 ft 0x0 offset 0x0 rfl (by simp; try rfl)) rfl (by simp)

theorem Sys2Proof.Laws.EncodeRow.sd (rt : Sys2Proof.Reg) (offset : BitVec 16) (base : Sys2Proof.Reg) : Sys2Proof.Laws.EncodeRow.Statement (.sd rt offset base) :=
  Sys2Proof.Laws.EncodeRow.ofRow 106 rfl (Sys2Proof.Laws.maskI 0x3F 0x3f base 0x0 rt 0x0 offset 0x0 rfl (by simp; try rfl)) rfl (by simp)
end

