-- ==== Sys2Proof/Tests/Slice0.lean ====
section
/-! SUPPORT. Tests, the expected results taken from the spec's vectors (spec/95, spec/96): the WellFormed smoke, a word per
constructor, one step per instruction, the machine around it, and for each statement states that meet its hypotheses. -/

namespace Sys2Proof.Tests

open Sys2Proof.Machine Sys2Proof.Claims

/-! ### Small states and what is read off an outcome -/

/-- The setting of spec/96: reset, a word at the entry, sixteen bytes at physical `0x2000`. -/
def atWord (w : Nat) : State :=
  State.withFetchWord
    { State.reset with mem := Memory.writeBytes [] 0x2000 [0x11, 0x22, 0x33, 0x44, 0x55, 0x66, 0x77, 0x88,
      0xF1, 0xF2, 0xF3, 0xF4, 0xF5, 0xF6, 0xF7, 0xF8] } 32 w

/-- A register after a step that completes. -/
def gprAfter (o : Outcome) (r : Reg) : Option Dword :=
  match o with
  | .next t => some (t.reg r)
  | .fault _ | .refused _ => none

/-- A system-control register after a step that completes. -/
def cop0After (o : Outcome) (i : Reg) : Option Dword :=
  match o with
  | .next t => some (t.cop0 i)
  | .fault _ | .refused _ => none

/-- HI and LO after a step that completes. -/
def hiLoAfter (o : Outcome) : Option (Word × Word) :=
  match o with
  | .next t => some (t.hi, t.lo)
  | .fault _ | .refused _ => none

/-- `pc` and the pending target after a step that completes. -/
def pcAfter (o : Outcome) : Option (Dword × Option Dword) :=
  match o with
  | .next t => some (t.pc, t.bd)
  | .fault _ | .refused _ => none

/-- The eight bytes at physical `0x2000` after a step that completes. -/
def bytesAfter (o : Outcome) : Option (List Byte) :=
  match o with
  | .next t => some (Memory.readBytes t.mem 0x2000 8)
  | .fault _ | .refused _ => none

/-- The code of the fault a step ends in. -/
def faultOf {α : Type} (o : Host.Outcome α Fault Refusal) : Option Nat :=
  match o with
  | .next _ | .refused _ => none
  | .fault f => some f.code

/-- `pc`, the pending target, `CYCLES` and Count in the state a faulted step leaves. -/
def leftByFault (o : Outcome) : Option (Dword × Option Dword × Dword × Dword) :=
  match o with
  | .next _ | .refused _ => none
  | .fault f => some (f.context.after.pc, f.context.after.bd, f.context.after.cycles, f.context.after.cop0 9)

/-! ### WellFormed: each check refuses an ill-formed term (30_encoding.md R117, R131) -/

theorem test_wf_refuses_sll_zero : (Instr.sll 0 0 0).wf = false := by decide
theorem test_wf_refuses_beq_zero : (Instr.beq 0 0 3).wf = false := by decide
theorem test_wf_refuses_bgez_zero : (Instr.bgez 0 3).wf = false := by decide
theorem test_wf_admits_neighbours :
    (Instr.sll 0 0 1).wf = true ∧ (Instr.sll 0 1 0).wf = true ∧ (Instr.sll 1 0 0).wf = true ∧ (Instr.beq 0 1 3).wf = true ∧
    (Instr.beq 1 0 3).wf = true ∧ (Instr.bgez 1 3).wf = true ∧ Instr.nop.wf = true := by decide

/-! ### A word for every constructor, and words of no row -/

/-- Words of spec/96 for the rows of `tableAliases`. -/
theorem test_decode_aliases :
    decodeWord 0x00000000 = some (.nop) ∧
    decodeWord 0x1000FFFF = some (.b (-1)) ∧
    decodeWord 0x04010003 = some (.bRegimm 3) := by decide

/-- Words of spec/96 for the rows of `tableShifts`. -/
theorem test_decode_shifts :
    decodeWord 0x00011100 = some (.sll 2 1 4) ∧
    decodeWord 0x00011102 = some (.srl 2 1 4) ∧
    decodeWord 0x00011103 = some (.sra 2 1 4) ∧
    decodeWord 0x00411804 = some (.sllv 3 1 2) ∧
    decodeWord 0x00411806 = some (.srlv 3 1 2) ∧
    decodeWord 0x00411807 = some (.srav 3 1 2) := by decide

/-- Words of spec/96 for the rows of `tableSpecial`. -/
theorem test_decode_special_1 :
    decodeWord 0x00200008 = some (.jr 1) ∧
    decodeWord 0x00202809 = some (.jalr 5 1) ∧
    decodeWord 0x0000000C = some (.syscall 0) ∧
    decodeWord 0x0000000D = some (.breakI 0) ∧
    decodeWord 0x0000000F = some (.sync) ∧
    decodeWord 0x00001810 = some (.mfhi 3) ∧
    decodeWord 0x00200011 = some (.mthi 1) ∧
    decodeWord 0x00001812 = some (.mflo 3) ∧
    decodeWord 0x00200013 = some (.mtlo 1) ∧
    decodeWord 0x00411814 = some (.dsllv 3 1 2) ∧
    decodeWord 0x00411816 = some (.dsrlv 3 1 2) ∧
    decodeWord 0x00411817 = some (.dsrav 3 1 2) := by decide

/-- Words of spec/96 for the rows of `tableSpecial`. -/
theorem test_decode_special_2 :
    decodeWord 0x00220018 = some (.mult 1 2) ∧
    decodeWord 0x00220019 = some (.multu 1 2) ∧
    decodeWord 0x0022001A = some (.div 1 2) ∧
    decodeWord 0x0022001B = some (.divu 1 2) := by decide

/-- Words of spec/96 for the rows of `tableRegister`. -/
theorem test_decode_register_1 :
    decodeWord 0x00210820 = some (.add 1 1 1) ∧
    decodeWord 0x00221821 = some (.addu 3 1 2) ∧
    decodeWord 0x00221822 = some (.sub 3 1 2) ∧
    decodeWord 0x00221823 = some (.subu 3 1 2) ∧
    decodeWord 0x00221824 = some (.and 3 1 2) ∧
    decodeWord 0x00221825 = some (.or 3 1 2) ∧
    decodeWord 0x00221826 = some (.xor 3 1 2) ∧
    decodeWord 0x00201827 = some (.nor 3 1 0) ∧
    decodeWord 0x0022182A = some (.slt 3 1 2) ∧
    decodeWord 0x0022182B = some (.sltu 3 1 2) ∧
    decodeWord 0x0022182C = some (.dadd 3 1 2) ∧
    decodeWord 0x0022182D = some (.daddu 3 1 2) := by decide

/-- Words of spec/96 for the rows of `tableRegister`. -/
theorem test_decode_register_2 :
    decodeWord 0x0022182E = some (.dsub 3 1 2) ∧
    decodeWord 0x0022182F = some (.dsubu 3 1 2) ∧
    decodeWord 0x000117F8 = some (.dsll 2 1 31) ∧
    decodeWord 0x0001107A = some (.dsrl 2 1 1) ∧
    decodeWord 0x0001107B = some (.dsra 2 1 1) ∧
    decodeWord 0x0001103C = some (.dsll32 2 1 0) ∧
    decodeWord 0x0001103E = some (.dsrl32 2 1 0) ∧
    decodeWord 0x0001103F = some (.dsra32 2 1 0) := by decide

/-- Words of spec/96 for the rows of `tableBranch`. -/
theorem test_decode_branch_1 :
    decodeWord 0x0420FFFF = some (.bltz 1 (-1)) ∧
    decodeWord 0x04217FFF = some (.bgez 1 32767) ∧
    decodeWord 0x04220003 = some (.bltzl 1 3) ∧
    decodeWord 0x04230003 = some (.bgezl 1 3) ∧
    decodeWord 0x04300004 = some (.bltzal 1 4) ∧
    decodeWord 0x04110004 = some (.bgezal 0 4) ∧
    decodeWord 0x04320003 = some (.bltzall 1 3) ∧
    decodeWord 0x04330003 = some (.bgezall 1 3) ∧
    decodeWord 0x08000408 = some (.j 1032) ∧
    decodeWord 0x0C000408 = some (.jal 1032) ∧
    decodeWord 0x10220003 = some (.beq 1 2 3) ∧
    decodeWord 0x1422FFFE = some (.bne 1 2 (-2)) := by decide

/-- Words of spec/96 for the rows of `tableBranch`. -/
theorem test_decode_branch_2 :
    decodeWord 0x18200010 = some (.blez 1 16) ∧
    decodeWord 0x1C200010 = some (.bgtz 1 16) := by decide

/-- Words of spec/96 for the rows of `tableImmediate`. -/
theorem test_decode_immediate :
    decodeWord 0x2021FFF6 = some (.addi 1 1 (-10)) ∧
    decodeWord 0x24220001 = some (.addiu 2 1 1) ∧
    decodeWord 0x2822FFFF = some (.slti 2 1 (-1)) ∧
    decodeWord 0x2C22FFFF = some (.sltiu 2 1 (-1)) ∧
    decodeWord 0x302200AD = some (.andi 2 1 173) ∧
    decodeWord 0x34228000 = some (.ori 2 1 32768) ∧
    decodeWord 0x3822FFFF = some (.xori 2 1 65535) ∧
    decodeWord 0x3C028000 = some (.lui 2 32768) := by decide

/-- Words of spec/96 for the rows of `tableCop`. -/
theorem test_decode_cop :
    decodeWord 0x40024800 = some (.mfc0 2 9) ∧
    decodeWord 0x40224800 = some (.dmfc0 2 9) ∧
    decodeWord 0x40823000 = some (.mtc0 2 6) ∧
    decodeWord 0x40A25800 = some (.dmtc0 2 11) ∧
    decodeWord 0x42000001 = some (.tlbr) ∧
    decodeWord 0x42000002 = some (.tlbwi) ∧
    decodeWord 0x42000006 = some (.tlbwr) ∧
    decodeWord 0x42000008 = some (.tlbp) ∧
    decodeWord 0x42000018 = some (.eret) ∧
    decodeWord 0x46000000 = some (.cop1 33554432) := by decide

/-- Words of spec/96 for the rows of `tableLikely`. -/
theorem test_decode_likely :
    decodeWord 0x50220003 = some (.beql 1 2 3) ∧
    decodeWord 0x54220003 = some (.bnel 1 2 3) ∧
    decodeWord 0x58200003 = some (.blezl 1 3) ∧
    decodeWord 0x5C200003 = some (.bgtzl 1 3) ∧
    decodeWord 0x60220001 = some (.daddi 2 1 1) ∧
    decodeWord 0x64220001 = some (.daddiu 2 1 1) ∧
    decodeWord 0x68220000 = some (.ldl 2 0 1) ∧
    decodeWord 0x6C220000 = some (.ldr 2 0 1) := by decide

/-- Words of spec/96 for the rows of `tableMemory`. -/
theorem test_decode_memory_1 :
    decodeWord 0x80220008 = some (.lb 2 8 1) ∧
    decodeWord 0x84220008 = some (.lh 2 8 1) ∧
    decodeWord 0x88220000 = some (.lwl 2 0 1) ∧
    decodeWord 0x8C220008 = some (.lw 2 8 1) ∧
    decodeWord 0x90220008 = some (.lbu 2 8 1) ∧
    decodeWord 0x94220008 = some (.lhu 2 8 1) ∧
    decodeWord 0x98220000 = some (.lwr 2 0 1) ∧
    decodeWord 0x9C220008 = some (.lwu 2 8 1) ∧
    decodeWord 0xA0220003 = some (.sb 2 3 1) ∧
    decodeWord 0xA4220002 = some (.sh 2 2 1) ∧
    decodeWord 0xA8220000 = some (.swl 2 0 1) ∧
    decodeWord 0xAC220004 = some (.sw 2 4 1) := by decide

/-- Words of spec/96 for the rows of `tableMemory`. -/
theorem test_decode_memory_2 :
    decodeWord 0xB0220000 = some (.sdl 2 0 1) ∧
    decodeWord 0xB4220000 = some (.sdr 2 0 1) ∧
    decodeWord 0xB8220000 = some (.swr 2 0 1) ∧
    decodeWord 0xBC350000 = some (.cache 21 0 1) ∧
    decodeWord 0xC4220000 = some (.lwc1 2 0 1) ∧
    decodeWord 0xD4220000 = some (.ldc1 2 0 1) ∧
    decodeWord 0xDC220000 = some (.ld 2 0 1) ∧
    decodeWord 0xE4220000 = some (.swc1 2 0 1) ∧
    decodeWord 0xF4220000 = some (.sdc1 2 0 1) ∧
    decodeWord 0xFC220000 = some (.sd 2 0 1) := by decide
/-- spec/95 E4: sampled words with every field at an extreme. -/
theorem test_decode_extremes :
    decodeWord 0x23FEFFFF = some (.addi 30 31 (-1)) ∧ decodeWord 0x03FEE824 = some (.and 29 31 30) ∧
    decodeWord 0x001EEFC3 = some (.sra 29 30 31) ∧ decodeWord 0x0FFFFFFF = some (.jal 0x3FFFFFF) ∧
    decodeWord 0x07F18000 = some (.bgezal 31 (-32768)) ∧ decodeWord 0x409F4800 = some (.mtc0 31 9) ∧
    decodeWord 0xDFFE7FF8 = some (.ld 30 0x7FF8 31) ∧ decodeWord 0xFFFFFFFF = some (.sd 31 (-1) 31) := by decide

/-- spec/96 X1 to X16: words of no row. -/
theorem test_decode_rejects :
    decodeWord 0x0022001C = none ∧ decodeWord 0x0022181A = none ∧ decodeWord 0x00000034 = none ∧
    decodeWord 0xC0220000 = none ∧ decodeWord 0xE0220000 = none ∧ decodeWord 0x48000000 = none := by decide

theorem test_decode_rejects_2 :
    decodeWord 0x42000010 = none ∧ decodeWord 0x0000000E = none ∧ decodeWord 0x70000000 = none ∧
    decodeWord 0x04080000 = none ∧ decodeWord 0x40000001 = none ∧ decodeWord 0x00210860 = none := by decide

theorem test_decode_rejects_3 :
    decodeWord 0x3C220001 = none ∧ decodeWord 0x1C010004 = none ∧ decodeWord 0x0000004F = none := by decide

/-- The table's bit numbering and the byte order of memory (30_encoding.md R110). -/
theorem test_decode_table_word :
    decodeTableWord 32 0x2021FFF6 = some (.addi 1 1 (-10)) ∧ decodeTableWord 32 0x0000000E = none ∧
    decodeBytes [0x20, 0x21, 0xFF, 0xF6, 0xAA] = .ok (.addi 1 1 (-10), [0xAA]) ∧
    decodeBytes [0x20, 0x21, 0xFF] = .error .truncated := by decide

/-- 30_encoding.md R130, with the syntax of R128. -/
theorem test_format_word : formatWord 0x2021FFF6 = "ADDI r1, r1, -10" ∧ formatWord 0x0000000E = "unknown" := by decide

/-! ### Immediate arithmetic and logic -/

/-- spec/96 A1: `ADDI r1, r1, -10`. -/
theorem test_addi_a1 : gprAfter (step (atWord 0x2021FFF6)) 1 = some 0xFFFFFFFFFFFFFFF6 := by decide

/-- spec/96 A2: `ADDI r2, r1, 1`. -/
theorem test_addi_a2 : faultOf (step ((atWord 0x20220001).setReg 1 0x000000007FFFFFFF)) = some 9 := by decide

/-- spec/96 A6: `ADDIU r2, r1, 1`. -/
theorem test_addiu_a6 : gprAfter (step ((atWord 0x24220001).setReg 1 0x000000007FFFFFFF)) 2 = some 0xFFFFFFFF80000000 := by decide

/-- spec/96 A7: `ADDIU r2, r1, -1`. -/
theorem test_addiu_a7 : gprAfter (step ((atWord 0x2422FFFF).setReg 1 0x0000000000000000)) 2 = some 0xFFFFFFFFFFFFFFFF := by decide

/-- spec/96 A8: `SLTI r2, r1, -1`. -/
theorem test_slti_a8 : gprAfter (step ((atWord 0x2822FFFF).setReg 1 0xFFFFFFFFFFFFFFFE)) 2 = some 0x0000000000000001 := by decide

/-- spec/96 A9: `SLTI r2, r1, 0`. -/
theorem test_slti_a9 : gprAfter (step ((atWord 0x28220000).setReg 1 0x0000000100000000)) 2 = some 0x0000000000000000 := by decide

/-- spec/96 A10: `SLTIU r2, r1, -1`. -/
theorem test_sltiu_a10 : gprAfter (step ((atWord 0x2C22FFFF).setReg 1 0x0000000000000005)) 2 = some 0x0000000000000001 := by decide

/-- spec/96 A11: `SLTIU r2, r1, -1`. -/
theorem test_sltiu_a11 : gprAfter (step ((atWord 0x2C22FFFF).setReg 1 0xFFFFFFFFFFFFFFFF)) 2 = some 0x0000000000000000 := by decide

/-- spec/96 A12: `ANDI r2, r1, 0x00AD`. -/
theorem test_andi_a12 : gprAfter (step ((atWord 0x302200AD).setReg 1 0x000000000000DEAD)) 2 = some 0x00000000000000AD := by decide

/-- spec/96 A13: `ANDI r2, r1, 0xFFFF`. -/
theorem test_andi_a13 : gprAfter (step ((atWord 0x3022FFFF).setReg 1 0xFFFFFFFFFFFFFFFF)) 2 = some 0x000000000000FFFF := by decide

/-- spec/96 A14: `ORI r2, r1, 0x8000`. -/
theorem test_ori_a14 : gprAfter (step ((atWord 0x34228000).setReg 1 0xFFFFFFFF00000001)) 2 = some 0xFFFFFFFF00008001 := by decide

/-- spec/96 A15: `XORI r2, r1, 0xFFFF`. -/
theorem test_xori_a15 : gprAfter (step ((atWord 0x3822FFFF).setReg 1 0x0000000012345678)) 2 = some 0x000000001234A987 := by decide

/-- spec/96 A16: `LUI r2, 0x8000`. -/
theorem test_lui_a16 : gprAfter (step ((atWord 0x3C028000).setReg 2 0x0000000000000055)) 2 = some 0xFFFFFFFF80000000 := by decide

/-- spec/96 A17: `LUI r2, 0x1234`. -/
theorem test_lui_a17 : gprAfter (step ((atWord 0x3C021234).setReg 2 0xFFFFFFFFFFFFFFFF)) 2 = some 0x0000000012340000 := by decide

/-- spec/96 A18: `DADDI r2, r1, 1`. -/
theorem test_daddi_a18 : faultOf (step ((atWord 0x60220001).setReg 1 0x7FFFFFFFFFFFFFFF)) = some 9 := by decide

/-- spec/96 A19: `DADDI r2, r1, 1`. -/
theorem test_daddi_a19 : gprAfter (step ((atWord 0x60220001).setReg 1 0x000000007FFFFFFF)) 2 = some 0x0000000080000000 := by decide

/-- spec/96 A20: `DADDIU r2, r1, 1`. -/
theorem test_daddiu_a20 : gprAfter (step ((atWord 0x64220001).setReg 1 0x7FFFFFFFFFFFFFFF)) 2 = some 0x8000000000000000 := by decide

/-- spec/96 A21: `DADDIU r2, r1, -32768`. -/
theorem test_daddiu_a21 : gprAfter (step ((atWord 0x64228000).setReg 1 0x0000000000008000)) 2 = some 0x0000000000000000 := by decide

/-! ### Register arithmetic and logic -/

/-- spec/96 B2: `ADD r3, r1, r2`. -/
theorem test_add_b2 : faultOf (step (((atWord 0x00221820).setReg 1 0x000000007FFFFFFF).setReg 2 0x0000000000000001)) = some 9 := by decide

/-- spec/96 B4: `ADD r3, r1, r2`. -/
theorem test_add_b4 : gprAfter (step (((atWord 0x00221820).setReg 1 0xAAAAAAAA00000001).setReg 2 0x5555555500000002)) 3 = some 0x0000000000000003 := by decide

/-- spec/96 B5: `ADDU r3, r1, r2`. -/
theorem test_addu_b5 : gprAfter (step (((atWord 0x00221821).setReg 1 0x000000007FFFFFFF).setReg 2 0x0000000000000001)) 3 = some 0xFFFFFFFF80000000 := by decide

/-- spec/96 B6: `ADDU r3, r1, r2`. -/
theorem test_addu_b6 : gprAfter (step (((atWord 0x00221821).setReg 1 0x00000000FFFFFFFF).setReg 2 0x0000000000000001)) 3 = some 0x0000000000000000 := by decide

/-- spec/96 B7: `SUB r3, r1, r2`. -/
theorem test_sub_b7 : faultOf (step (((atWord 0x00221822).setReg 1 0xFFFFFFFF80000000).setReg 2 0x0000000000000001)) = some 9 := by decide

/-- spec/96 B8: `SUB r3, r1, r2`. -/
theorem test_sub_b8 : gprAfter (step (((atWord 0x00221822).setReg 1 0x0000000000000005).setReg 2 0x0000000000000007)) 3 = some 0xFFFFFFFFFFFFFFFE := by decide

/-- spec/96 B9: `SUBU r3, r1, r2`. -/
theorem test_subu_b9 : gprAfter (step (((atWord 0x00221823).setReg 1 0xFFFFFFFF80000000).setReg 2 0x0000000000000001)) 3 = some 0x000000007FFFFFFF := by decide

/-- spec/96 B10: `AND r3, r1, r2`. -/
theorem test_and_b10 : gprAfter (step (((atWord 0x00221824).setReg 1 0x000000000000DEAD).setReg 2 0x00000000000000AD)) 3 = some 0x00000000000000AD := by decide

/-- spec/96 B11: `OR r3, r1, r2`. -/
theorem test_or_b11 : gprAfter (step (((atWord 0x00221825).setReg 1 0xF0F0F0F000000000).setReg 2 0x000000000F0F0F0F)) 3 = some 0xF0F0F0F00F0F0F0F := by decide

/-- spec/96 B24: `OR r0, r1, r2`. -/
theorem test_or_b24 : gprAfter (step (((atWord 0x00220025).setReg 1 0x0000000000000001).setReg 2 0x0000000000000002)) 0 = some 0x0000000000000000 := by decide

/-- spec/96 B12: `XOR r3, r1, r2`. -/
theorem test_xor_b12 : gprAfter (step (((atWord 0x00221826).setReg 1 0xFFFFFFFFFFFFFFFF).setReg 2 0x00000000FFFFFFFF)) 3 = some 0xFFFFFFFF00000000 := by decide

/-- spec/96 B14: `NOR r3, r1, r2`. -/
theorem test_nor_b14 : gprAfter (step (((atWord 0x00221827).setReg 1 0xFFFF0000FFFF0000).setReg 2 0x0000FFFF00000000)) 3 = some 0x000000000000FFFF := by decide

/-- spec/96 B15: `SLT r3, r1, r2`. -/
theorem test_slt_b15 : gprAfter (step (((atWord 0x0022182A).setReg 1 0xFFFFFFFFFFFFFFFF).setReg 2 0x0000000000000000)) 3 = some 0x0000000000000001 := by decide

/-- spec/96 B16: `SLT r3, r1, r2`. -/
theorem test_slt_b16 : gprAfter (step (((atWord 0x0022182A).setReg 1 0x8000000000000000).setReg 2 0x7FFFFFFFFFFFFFFF)) 3 = some 0x0000000000000001 := by decide

/-- spec/96 B17: `SLTU r3, r1, r2`. -/
theorem test_sltu_b17 : gprAfter (step (((atWord 0x0022182B).setReg 1 0xFFFFFFFFFFFFFFFF).setReg 2 0x0000000000000000)) 3 = some 0x0000000000000000 := by decide

/-- spec/96 B18: `SLTU r3, r1, r2`. -/
theorem test_sltu_b18 : gprAfter (step (((atWord 0x0022182B).setReg 1 0x0000000000000000).setReg 2 0xFFFFFFFFFFFFFFFF)) 3 = some 0x0000000000000001 := by decide

/-- spec/96 B19: `DADD r3, r1, r2`. -/
theorem test_dadd_b19 : faultOf (step (((atWord 0x0022182C).setReg 1 0x7FFFFFFFFFFFFFFF).setReg 2 0x0000000000000001)) = some 9 := by decide

/-- spec/96 B20: `DADD r3, r1, r2`. -/
theorem test_dadd_b20 : gprAfter (step (((atWord 0x0022182C).setReg 1 0x000000007FFFFFFF).setReg 2 0x0000000000000001)) 3 = some 0x0000000080000000 := by decide

/-- spec/96 B21: `DADDU r3, r1, r2`. -/
theorem test_daddu_b21 : gprAfter (step (((atWord 0x0022182D).setReg 1 0x7FFFFFFFFFFFFFFF).setReg 2 0x0000000000000001)) 3 = some 0x8000000000000000 := by decide

/-- spec/96 B22: `DSUB r3, r1, r2`. -/
theorem test_dsub_b22 : faultOf (step (((atWord 0x0022182E).setReg 1 0x8000000000000000).setReg 2 0x0000000000000001)) = some 9 := by decide

/-- by hand, R193: `DSUB r3, r1, r2`. -/
theorem test_dsub_y1 : gprAfter (step (((atWord 0x0022182E).setReg 1 0x0000000000000005).setReg 2 0x0000000000000007)) 3 = some 0xFFFFFFFFFFFFFFFE := by decide

/-- spec/96 B23: `DSUBU r3, r1, r2`. -/
theorem test_dsubu_b23 : gprAfter (step (((atWord 0x0022182F).setReg 1 0x0000000000000000).setReg 2 0x0000000000000001)) 3 = some 0xFFFFFFFFFFFFFFFF := by decide

/-! ### Shifts -/

/-- spec/96 S2: `SLL r2, r1, 1`. -/
theorem test_sll_s2 : gprAfter (step ((atWord 0x00011040).setReg 1 0x0000000040000000)) 2 = some 0xFFFFFFFF80000000 := by decide

/-- spec/96 S3: `SLL r2, r1, 0`. -/
theorem test_sll_s3 : gprAfter (step ((atWord 0x00011000).setReg 1 0x1234567880000000)) 2 = some 0xFFFFFFFF80000000 := by decide

/-- spec/96 S4: `SRL r2, r1, 4`. -/
theorem test_srl_s4 : gprAfter (step ((atWord 0x00011102).setReg 1 0xFFFFFFFF80000000)) 2 = some 0x0000000008000000 := by decide

/-- spec/96 S5: `SRL r2, r1, 0`. -/
theorem test_srl_s5 : gprAfter (step ((atWord 0x00011002).setReg 1 0x0000000080000000)) 2 = some 0xFFFFFFFF80000000 := by decide

/-- spec/96 S7: `SRA r2, r1, 4`. -/
theorem test_sra_s7 : gprAfter (step ((atWord 0x00011103).setReg 1 0x0000000180000000)) 2 = some 0xFFFFFFFFF8000000 := by decide

/-- spec/96 S8: `SRA r2, r1, 31`. -/
theorem test_sra_s8 : gprAfter (step ((atWord 0x000117C3).setReg 1 0x000000007FFFFFFF)) 2 = some 0x0000000000000000 := by decide

/-- spec/96 S9: `SLLV r3, r1, r2`. -/
theorem test_sllv_s9 : gprAfter (step (((atWord 0x00411804).setReg 1 0x0000000000000001).setReg 2 0x000000000000003F)) 3 = some 0xFFFFFFFF80000000 := by decide

/-- spec/96 S10: `SRLV r3, r1, r2`. -/
theorem test_srlv_s10 : gprAfter (step (((atWord 0x00411806).setReg 1 0x0000000080000000).setReg 2 0x0000000000000024)) 3 = some 0x0000000008000000 := by decide

/-- spec/96 S11: `SRAV r3, r1, r2`. -/
theorem test_srav_s11 : gprAfter (step (((atWord 0x00411807).setReg 1 0x0000000080000000).setReg 2 0x000000000000001F)) 3 = some 0xFFFFFFFFFFFFFFFF := by decide

/-- spec/96 S12: `DSLL r2, r1, 31`. -/
theorem test_dsll_s12 : gprAfter (step ((atWord 0x000117F8).setReg 1 0x0000000000000001)) 2 = some 0x0000000080000000 := by decide

/-- spec/96 S13: `DSRL r2, r1, 1`. -/
theorem test_dsrl_s13 : gprAfter (step ((atWord 0x0001107A).setReg 1 0x8000000000000000)) 2 = some 0x4000000000000000 := by decide

/-- spec/96 S14: `DSRA r2, r1, 1`. -/
theorem test_dsra_s14 : gprAfter (step ((atWord 0x0001107B).setReg 1 0x8000000000000000)) 2 = some 0xC000000000000000 := by decide

/-- spec/96 S15: `DSLL32 r2, r1, 0`. -/
theorem test_dsll32_s15 : gprAfter (step ((atWord 0x0001103C).setReg 1 0x00000000DEADBEEF)) 2 = some 0xDEADBEEF00000000 := by decide

/-- spec/96 S16: `DSLL32 r2, r1, 31`. -/
theorem test_dsll32_s16 : gprAfter (step ((atWord 0x000117FC).setReg 1 0x0000000000000001)) 2 = some 0x8000000000000000 := by decide

/-- spec/96 S17: `DSRL32 r2, r1, 0`. -/
theorem test_dsrl32_s17 : gprAfter (step ((atWord 0x0001103E).setReg 1 0xDEADBEEF00000000)) 2 = some 0x00000000DEADBEEF := by decide

/-- spec/96 S18: `DSRA32 r2, r1, 0`. -/
theorem test_dsra32_s18 : gprAfter (step ((atWord 0x0001103F).setReg 1 0xDEADBEEF00000000)) 2 = some 0xFFFFFFFFDEADBEEF := by decide

/-- spec/96 S19: `DSRA32 r2, r1, 31`. -/
theorem test_dsra32_s19 : gprAfter (step ((atWord 0x000117FF).setReg 1 0x8000000000000000)) 2 = some 0xFFFFFFFFFFFFFFFF := by decide

/-- spec/96 S20: `DSLLV r3, r1, r2`. -/
theorem test_dsllv_s20 : gprAfter (step (((atWord 0x00411814).setReg 1 0x0000000000000001).setReg 2 0x000000000000003F)) 3 = some 0x8000000000000000 := by decide

/-- spec/96 S21: `DSLLV r3, r1, r2`. -/
theorem test_dsllv_s21 : gprAfter (step (((atWord 0x00411814).setReg 1 0x0000000000000001).setReg 2 0x0000000000000040)) 3 = some 0x0000000000000001 := by decide

/-- spec/96 S22: `DSRLV r3, r1, r2`. -/
theorem test_dsrlv_s22 : gprAfter (step (((atWord 0x00411816).setReg 1 0x8000000000000000).setReg 2 0x000000000000003F)) 3 = some 0x0000000000000001 := by decide

/-- spec/96 S23: `DSRAV r3, r1, r2`. -/
theorem test_dsrav_s23 : gprAfter (step (((atWord 0x00411817).setReg 1 0x8000000000000000).setReg 2 0x000000000000003F)) 3 = some 0xFFFFFFFFFFFFFFFF := by decide

/-! ### Multiply, divide, HI and LO -/

/-- spec/96 M1: `MULT r1, r2`. -/
theorem test_mult_m1 : hiLoAfter (step (((atWord 0x00220018).setReg 1 0xFFFFFFFFFFFFFFFE).setReg 2 0x0000000000000003)) = some (0xFFFFFFFF, 0xFFFFFFFA) := by decide

/-- spec/96 M3: `MULT r1, r2`. -/
theorem test_mult_m3 : hiLoAfter (step (((atWord 0x00220018).setReg 1 0xFFFFFFFF80000000).setReg 2 0xFFFFFFFF80000000)) = some (0x40000000, 0x00000000) := by decide

/-- spec/96 M5: `MULTU r1, r2`. -/
theorem test_multu_m5 : hiLoAfter (step (((atWord 0x00220019).setReg 1 0x00000000FFFFFFFF).setReg 2 0x00000000FFFFFFFF)) = some (0xFFFFFFFE, 0x00000001) := by decide

/-- spec/96 M6: `MULTU r1, r2`. -/
theorem test_multu_m6 : hiLoAfter (step (((atWord 0x00220019).setReg 1 0xFFFFFFFFFFFFFFFE).setReg 2 0x0000000000000003)) = some (0x00000002, 0xFFFFFFFA) := by decide

/-- spec/96 M8: `DIV r1, r2`. -/
theorem test_div_m8 : hiLoAfter (step (((atWord 0x0022001A).setReg 1 0xFFFFFFFFFFFFFFF9).setReg 2 0x0000000000000002)) = some (0xFFFFFFFF, 0xFFFFFFFD) := by decide

/-- spec/96 M11: `DIV r1, r2`. -/
theorem test_div_m11 : hiLoAfter (step (((atWord 0x0022001A).setReg 1 0xFFFFFFFF80000000).setReg 2 0xFFFFFFFFFFFFFFFF)) = some (0x00000000, 0x80000000) := by decide

/-- spec/96 M12: `DIVU r1, r2`. -/
theorem test_divu_m12 : hiLoAfter (step (((atWord 0x0022001B).setReg 1 0x00000000FFFFFFFF).setReg 2 0x0000000000000002)) = some (0x00000001, 0x7FFFFFFF) := by decide

/-- spec/96 M13: `DIVU r1, r2`. -/
theorem test_divu_m13 : hiLoAfter (step (((atWord 0x0022001B).setReg 1 0xFFFFFFFFFFFFFFF9).setReg 2 0x0000000000000002)) = some (0x00000001, 0x7FFFFFFC) := by decide

/-- spec/96 M14: `MFHI r3`. -/
theorem test_mfhi_m14 : gprAfter (step ({ (atWord 0x00001810).setReg 3 0x0000000000000001 with hi := 0x80000000, lo := 0x00000005 })) 3 = some 0xFFFFFFFF80000000 := by decide

/-- spec/96 M15: `MFLO r3`. -/
theorem test_mflo_m15 : gprAfter (step ({ (atWord 0x00001812).setReg 3 0x0000000000000001 with hi := 0x80000000, lo := 0x7FFFFFFF })) 3 = some 0x000000007FFFFFFF := by decide

/-- spec/96 M16: `MTHI r1`. -/
theorem test_mthi_m16 : hiLoAfter (step ({ (atWord 0x00200011).setReg 1 0x12345678DEADBEEF with hi := 0x00000000, lo := 0x00000007 })) = some (0xDEADBEEF, 0x00000007) := by decide

/-- spec/96 M17: `MTLO r1`. -/
theorem test_mtlo_m17 : hiLoAfter (step ({ (atWord 0x00200013).setReg 1 0x12345678DEADBEEF with hi := 0x00000009, lo := 0x00000000 })) = some (0x00000009, 0xDEADBEEF) := by decide

/-! ### Branches and jumps -/

/-- spec/96 J2: `J 0x3FFFFFF`. -/
theorem test_j_j2 : pcAfter (step (atWord 0x0BFFFFFF)) = some (0x0000000080001004, some 0x000000008FFFFFFC) := by decide

/-- spec/96 J3: `JAL 0x0000408`. -/
theorem test_jal_j3 : gprAfter (step (atWord 0x0C000408)) 31 = some 0x0000000080001008 ∧
    pcAfter (step (atWord 0x0C000408)) = some (0x0000000080001004, some 0x0000000080001020) := by decide

/-- spec/96 J5: `JR r1`. -/
theorem test_jr_j5 : pcAfter (step ((atWord 0x00200008).setReg 1 0x0000000080002002)) = some (0x0000000080001004, some 0x0000000080002002) := by decide

/-- spec/96 J7: `JALR r1, r1`. -/
theorem test_jalr_j7 : gprAfter (step ((atWord 0x00200809).setReg 1 0x0000000080002000)) 1 = some 0x0000000080001008 ∧
    pcAfter (step ((atWord 0x00200809).setReg 1 0x0000000080002000)) = some (0x0000000080001004, some 0x0000000080002000) := by decide

/-- spec/96 J8: `JALR r0, r1`. -/
theorem test_jalr_j8 : gprAfter (step ((atWord 0x00200009).setReg 1 0x0000000080002000)) 0 = some 0x0000000000000000 ∧
    pcAfter (step ((atWord 0x00200009).setReg 1 0x0000000080002000)) = some (0x0000000080001004, some 0x0000000080002000) := by decide

/-- spec/96 J9: `BEQ r1, r2, 3`. -/
theorem test_beq_j9 : pcAfter (step (((atWord 0x10220003).setReg 1 0x0000000000000005).setReg 2 0x0000000000000005)) = some (0x0000000080001004, some 0x0000000080001010) := by decide

/-- spec/96 J11: `BEQ r1, r2, 3`. -/
theorem test_beq_j11 : pcAfter (step (((atWord 0x10220003).setReg 1 0x0000000100000005).setReg 2 0x0000000000000005)) = some (0x0000000080001008, none) := by decide

/-- spec/96 J12: `BNE r1, r2, -2`. -/
theorem test_bne_j12 : pcAfter (step (((atWord 0x1422FFFE).setReg 1 0x0000000000000005).setReg 2 0x0000000000000006)) = some (0x0000000080001004, some 0x0000000080000FFC) := by decide

/-- spec/96 J13: `BNE r1, r2, -2`. -/
theorem test_bne_j13 : pcAfter (step (((atWord 0x1422FFFE).setReg 1 0x0000000000000005).setReg 2 0x0000000000000005)) = some (0x0000000080001008, none) := by decide

/-- spec/96 J14: `BLEZ r1, 16`. -/
theorem test_blez_j14 : pcAfter (step ((atWord 0x18200010).setReg 1 0x0000000000000000)) = some (0x0000000080001004, some 0x0000000080001044) := by decide

/-- spec/96 J15: `BLEZ r1, 16`. -/
theorem test_blez_j15 : pcAfter (step ((atWord 0x18200010).setReg 1 0x0000000000000001)) = some (0x0000000080001008, none) := by decide

/-- spec/96 J16: `BGTZ r1, 16`. -/
theorem test_bgtz_j16 : pcAfter (step ((atWord 0x1C200010).setReg 1 0x0000000000000001)) = some (0x0000000080001004, some 0x0000000080001044) := by decide

/-- spec/96 J17: `BGTZ r1, 16`. -/
theorem test_bgtz_j17 : pcAfter (step ((atWord 0x1C200010).setReg 1 0x8000000000000000)) = some (0x0000000080001008, none) := by decide

/-- spec/96 J18: `BLTZ r1, -1`. -/
theorem test_bltz_j18 : pcAfter (step ((atWord 0x0420FFFF).setReg 1 0xFFFFFFFFFFFFFFFF)) = some (0x0000000080001004, some 0x0000000080001000) := by decide

/-- spec/96 J19: `BLTZ r1, -1`. -/
theorem test_bltz_j19 : pcAfter (step ((atWord 0x0420FFFF).setReg 1 0x00000000FFFFFFFF)) = some (0x0000000080001008, none) := by decide

/-- spec/96 J20: `BGEZ r1, 32767`. -/
theorem test_bgez_j20 : pcAfter (step ((atWord 0x04217FFF).setReg 1 0x0000000000000000)) = some (0x0000000080001004, some 0x0000000080021000) := by decide

/-- spec/96 J21: `BGEZ r1, -32768`. -/
theorem test_bgez_j21 : pcAfter (step ((atWord 0x04218000).setReg 1 0x0000000000000000)) = some (0x0000000080001004, some 0x000000007FFE1004) := by decide

/-- spec/96 J23: `BLTZAL r1, 4`. -/
theorem test_bltzal_j23 : gprAfter (step ((atWord 0x04300004).setReg 1 0x0000000000000001)) 31 = some 0x0000000080001008 ∧
    pcAfter (step ((atWord 0x04300004).setReg 1 0x0000000000000001)) = some (0x0000000080001008, none) := by decide

/-- spec/96 J25: `BLTZAL r31, 4`. -/
theorem test_bltzal_j25 : gprAfter (step ((atWord 0x07F00004).setReg 31 0xFFFFFFFFFFFFFFFF)) 31 = some 0x0000000080001008 ∧
    pcAfter (step ((atWord 0x07F00004).setReg 31 0xFFFFFFFFFFFFFFFF)) = some (0x0000000080001004, some 0x0000000080001014) := by decide

/-- spec/96 J24: `BGEZAL r0, 4`. -/
theorem test_bgezal_j24 : gprAfter (step (atWord 0x04110004)) 31 = some 0x0000000080001008 ∧
    pcAfter (step (atWord 0x04110004)) = some (0x0000000080001004, some 0x0000000080001014) := by decide

/-- spec/96 J26: `BEQL r1, r2, 3`. -/
theorem test_beql_j26 : pcAfter (step (((atWord 0x50220003).setReg 1 0x0000000000000005).setReg 2 0x0000000000000005)) = some (0x0000000080001004, some 0x0000000080001010) := by decide

/-- spec/96 J27: `BEQL r1, r2, 3`. -/
theorem test_beql_j27 : pcAfter (step (((atWord 0x50220003).setReg 1 0x0000000000000005).setReg 2 0x0000000000000006)) = some (0x0000000080001008, none) := by decide

/-- spec/96 J28: `BNEL r1, r2, 3`. -/
theorem test_bnel_j28 : pcAfter (step (((atWord 0x54220003).setReg 1 0x0000000000000005).setReg 2 0x0000000000000006)) = some (0x0000000080001004, some 0x0000000080001010) := by decide

/-- spec/96 J29: `BLEZL r1, 3`. -/
theorem test_blezl_j29 : pcAfter (step ((atWord 0x58200003).setReg 1 0x0000000000000001)) = some (0x0000000080001008, none) := by decide

/-- spec/96 J30: `BGTZL r1, 3`. -/
theorem test_bgtzl_j30 : pcAfter (step ((atWord 0x5C200003).setReg 1 0x0000000000000001)) = some (0x0000000080001004, some 0x0000000080001010) := by decide

/-- spec/96 J31: `BLTZL r1, 3`. -/
theorem test_bltzl_j31 : pcAfter (step ((atWord 0x04220003).setReg 1 0x0000000000000000)) = some (0x0000000080001008, none) := by decide

/-- spec/96 J32: `BGEZL r1, 3`. -/
theorem test_bgezl_j32 : pcAfter (step ((atWord 0x04230003).setReg 1 0x0000000000000000)) = some (0x0000000080001004, some 0x0000000080001010) := by decide

/-- spec/96 J33: `BLTZALL r1, 3`. -/
theorem test_bltzall_j33 : gprAfter (step ((atWord 0x04320003).setReg 1 0x0000000000000000)) 31 = some 0x0000000080001008 ∧
    pcAfter (step ((atWord 0x04320003).setReg 1 0x0000000000000000)) = some (0x0000000080001008, none) := by decide

/-- spec/96 J34: `BGEZALL r1, 3`. -/
theorem test_bgezall_j34 : gprAfter (step ((atWord 0x04330003).setReg 1 0x0000000000000000)) 31 = some 0x0000000080001008 ∧
    pcAfter (step ((atWord 0x04330003).setReg 1 0x0000000000000000)) = some (0x0000000080001004, some 0x0000000080001010) := by decide

/-- spec/96 J35: `B -1`. -/
theorem test_b_j35 : pcAfter (step (atWord 0x1000FFFF)) = some (0x0000000080001004, some 0x0000000080001000) := by decide

/-- spec/96 J36: `BGEZ r0, 3 (displayed as B 3)`. -/
theorem test_b_regimm_j36 : pcAfter (step (atWord 0x04010003)) = some (0x0000000080001004, some 0x0000000080001010) := by decide

/-! ### Aligned loads and stores -/

/-- spec/96 L1: `LB r2, 8(r1)`. -/
theorem test_lb_l1 : gprAfter (step ((atWord 0x80220008).setReg 1 0x0000000080002000)) 2 = some 0xFFFFFFFFFFFFFFF1 := by decide

/-- spec/96 L3: `LBU r2, 8(r1)`. -/
theorem test_lbu_l3 : gprAfter (step ((atWord 0x90220008).setReg 1 0x0000000080002000)) 2 = some 0x00000000000000F1 := by decide

/-- spec/96 L4: `LH r2, 8(r1)`. -/
theorem test_lh_l4 : gprAfter (step ((atWord 0x84220008).setReg 1 0x0000000080002000)) 2 = some 0xFFFFFFFFFFFFF1F2 := by decide

/-- spec/96 L5: `LH r2, 1(r1)`. -/
theorem test_lh_l5 : faultOf (step ((atWord 0x84220001).setReg 1 0x0000000080002000)) = some 2 := by decide

/-- spec/96 L6: `LHU r2, 8(r1)`. -/
theorem test_lhu_l6 : gprAfter (step ((atWord 0x94220008).setReg 1 0x0000000080002000)) 2 = some 0x000000000000F1F2 := by decide

/-- spec/96 L10: `LW r2, 0(r1)`. -/
theorem test_lw_l10 : gprAfter (step ((atWord 0x8C220000).setReg 1 0x12345678A0002000)) 2 = some 0x0000000011223344 := by decide

/-- spec/96 L11: `LW r2, 0(r1)`. -/
theorem test_lw_l11 : faultOf (step ((atWord 0x8C220000).setReg 1 0x0000000000002000)) = some 3 := by decide

/-- spec/96 L15: `LWU r2, 8(r1)`. -/
theorem test_lwu_l15 : gprAfter (step ((atWord 0x9C220008).setReg 1 0x0000000080002000)) 2 = some 0x00000000F1F2F3F4 := by decide

/-- spec/96 L18: `LD r2, -8(r1)`. -/
theorem test_ld_l18 : gprAfter (step ((atWord 0xDC22FFF8).setReg 1 0x0000000080002010)) 2 = some 0xF1F2F3F4F5F6F7F8 := by decide

/-- spec/96 L17: `LD r2, 4(r1)`. -/
theorem test_ld_l17 : faultOf (step ((atWord 0xDC220004).setReg 1 0x0000000080002000)) = some 2 := by decide

/-- spec/96 L19: `SB r2, 3(r1)`. -/
theorem test_sb_l19 : bytesAfter (step (((atWord 0xA0220003).setReg 1 0x0000000080002000).setReg 2 0xAABBCCDDEEFF00AB)) = some [0x11, 0x22, 0x33, 0xAB, 0x55, 0x66, 0x77, 0x88] := by decide

/-- spec/96 L20: `SH r2, 2(r1)`. -/
theorem test_sh_l20 : bytesAfter (step (((atWord 0xA4220002).setReg 1 0x0000000080002000).setReg 2 0xAABBCCDDEEFF00AB)) = some [0x11, 0x22, 0x00, 0xAB, 0x55, 0x66, 0x77, 0x88] := by decide

/-- spec/96 L22: `SW r2, 4(r1)`. -/
theorem test_sw_l22 : bytesAfter (step (((atWord 0xAC220004).setReg 1 0x0000000080002000).setReg 2 0xAABBCCDDEEFF00AB)) = some [0x11, 0x22, 0x33, 0x44, 0xEE, 0xFF, 0x00, 0xAB] := by decide

/-- spec/96 L26: `SW r2, 0(r1)`. -/
theorem test_sw_l26 : faultOf (step (((atWord 0xAC220000).setReg 1 0x00000000B0000000).setReg 2 0x0000000000000005)) = some 5 := by decide

/-- spec/96 L24: `SD r2, 0(r1)`. -/
theorem test_sd_l24 : bytesAfter (step (((atWord 0xFC220000).setReg 1 0x0000000080002000).setReg 2 0xAABBCCDDEEFF00AB)) = some [0xAA, 0xBB, 0xCC, 0xDD, 0xEE, 0xFF, 0x00, 0xAB] := by decide

/-- spec/96 L25: `SD r2, 4(r1)`. -/
theorem test_sd_l25 : faultOf (step (((atWord 0xFC220004).setReg 1 0x0000000080002000).setReg 2 0xAABBCCDDEEFF00AB)) = some 2 := by decide

/-! ### Partial-word loads and stores -/

/-- spec/96 U2: `LWL r2, 1(r1)`. -/
theorem test_lwl_u2 : gprAfter (step (((atWord 0x88220001).setReg 1 0x0000000080002008).setReg 2 0x0123456789ABCDEF)) 2 = some 0xFFFFFFFFF2F3F4EF := by decide

/-- spec/96 U4: `LWL r2, 3(r1)`. -/
theorem test_lwl_u4 : gprAfter (step (((atWord 0x88220003).setReg 1 0x0000000080002008).setReg 2 0x0123456789ABCDEF)) 2 = some 0xFFFFFFFFF4ABCDEF := by decide

/-- spec/96 U5: `LWR r2, 0(r1)`. -/
theorem test_lwr_u5 : gprAfter (step (((atWord 0x98220000).setReg 1 0x0000000080002008).setReg 2 0x0123456789ABCDEF)) 2 = some 0xFFFFFFFF89ABCDF1 := by decide

/-- spec/96 U7: `LWR r2, 2(r1)`. -/
theorem test_lwr_u7 : gprAfter (step (((atWord 0x98220002).setReg 1 0x0000000080002008).setReg 2 0x0123456789ABCDEF)) 2 = some 0xFFFFFFFF89F1F2F3 := by decide

/-- spec/96 U10: `LDL r2, 3(r1)`. -/
theorem test_ldl_u10 : gprAfter (step (((atWord 0x68220003).setReg 1 0x0000000080002008).setReg 2 0x0123456789ABCDEF)) 2 = some 0xF4F5F6F7F8ABCDEF := by decide

/-- spec/96 U11: `LDL r2, 7(r1)`. -/
theorem test_ldl_u11 : gprAfter (step (((atWord 0x68220007).setReg 1 0x0000000080002008).setReg 2 0x0123456789ABCDEF)) 2 = some 0xF823456789ABCDEF := by decide

/-- spec/96 U12: `LDR r2, 0(r1)`. -/
theorem test_ldr_u12 : gprAfter (step (((atWord 0x6C220000).setReg 1 0x0000000080002008).setReg 2 0x0123456789ABCDEF)) 2 = some 0x0123456789ABCDF1 := by decide

/-- spec/96 U13: `LDR r2, 3(r1)`. -/
theorem test_ldr_u13 : gprAfter (step (((atWord 0x6C220003).setReg 1 0x0000000080002008).setReg 2 0x0123456789ABCDEF)) 2 = some 0x01234567F1F2F3F4 := by decide

/-- spec/96 U16: `SWL r2, 1(r1)`. -/
theorem test_swl_u16 : bytesAfter (step (((atWord 0xA8220001).setReg 1 0x0000000080002000).setReg 2 0xAABBCCDDEEFF00AB)) = some [0x11, 0xEE, 0xFF, 0x00, 0x55, 0x66, 0x77, 0x88] := by decide

/-- spec/96 U17: `SWL r2, 3(r1)`. -/
theorem test_swl_u17 : bytesAfter (step (((atWord 0xA8220003).setReg 1 0x0000000080002000).setReg 2 0xAABBCCDDEEFF00AB)) = some [0x11, 0x22, 0x33, 0xEE, 0x55, 0x66, 0x77, 0x88] := by decide

/-- spec/96 U18: `SWR r2, 0(r1)`. -/
theorem test_swr_u18 : bytesAfter (step (((atWord 0xB8220000).setReg 1 0x0000000080002000).setReg 2 0xAABBCCDDEEFF00AB)) = some [0xAB, 0x22, 0x33, 0x44, 0x55, 0x66, 0x77, 0x88] := by decide

/-- spec/96 U19: `SWR r2, 1(r1)`. -/
theorem test_swr_u19 : bytesAfter (step (((atWord 0xB8220001).setReg 1 0x0000000080002000).setReg 2 0xAABBCCDDEEFF00AB)) = some [0x00, 0xAB, 0x33, 0x44, 0x55, 0x66, 0x77, 0x88] := by decide

/-- spec/96 U22: `SDL r2, 3(r1)`. -/
theorem test_sdl_u22 : bytesAfter (step (((atWord 0xB0220003).setReg 1 0x0000000080002000).setReg 2 0xAABBCCDDEEFF00AB)) = some [0x11, 0x22, 0x33, 0xAA, 0xBB, 0xCC, 0xDD, 0xEE] := by decide

/-- spec/96 U23: `SDL r2, 7(r1)`. -/
theorem test_sdl_u23 : bytesAfter (step (((atWord 0xB0220007).setReg 1 0x0000000080002000).setReg 2 0xAABBCCDDEEFF00AB)) = some [0x11, 0x22, 0x33, 0x44, 0x55, 0x66, 0x77, 0xAA] := by decide

/-- spec/96 U24: `SDR r2, 0(r1)`. -/
theorem test_sdr_u24 : bytesAfter (step (((atWord 0xB4220000).setReg 1 0x0000000080002000).setReg 2 0xAABBCCDDEEFF00AB)) = some [0xAB, 0x22, 0x33, 0x44, 0x55, 0x66, 0x77, 0x88] := by decide

/-- spec/96 U25: `SDR r2, 3(r1)`. -/
theorem test_sdr_u25 : bytesAfter (step (((atWord 0xB4220003).setReg 1 0x0000000080002000).setReg 2 0xAABBCCDDEEFF00AB)) = some [0xEE, 0xFF, 0x00, 0xAB, 0x55, 0x66, 0x77, 0x88] := by decide

/-! ### System control -/

/-- spec/96 C2: `MFC0 r2, 9`. -/
theorem test_mfc0_c2 : gprAfter (step ({ (atWord 0x40024800).setCop0 9 0x00000001FFFFFFFF with cycles := 1 })) 2 = some 0x0000000000000000 := by decide

/-- spec/96 C4: `MFC0 r2, 12`. -/
theorem test_mfc0_c4 : gprAfter (step ((atWord 0x40026000).setCop0 12 0x0000000080000000)) 2 = some 0xFFFFFFFF80000000 := by decide

/-- spec/96 C3: `DMFC0 r2, 9`. -/
theorem test_dmfc0_c3 : gprAfter (step ({ (atWord 0x40224800).setCop0 9 0x00000001FFFFFFFF with cycles := 0 })) 2 = some 0x00000001FFFFFFFF := by decide

/-- spec/96 C7: `MTC0 r2, 9`. -/
theorem test_mtc0_c7 : cop0After (step ((atWord 0x40824800).setReg 2 0x1234567880000000)) 9 = some 0xFFFFFFFF80000000 := by decide

/-- spec/96 C10: `MTC0 r2, 12`. -/
theorem test_mtc0_c10 : faultOf (step ((atWord 0x40826000).setReg 2 0x0000000000000001)) = some 6 := by decide

/-- spec/96 C8: `DMTC0 r2, 11`. -/
theorem test_dmtc0_c8 : cop0After (step ((atWord 0x40A25800).setReg 2 0x1234567880000000)) 11 = some 0x1234567880000000 := by decide

/-- spec/96 C11: `DMTC0 r2, 14`. -/
theorem test_dmtc0_c11 : faultOf (step ((atWord 0x40A27000).setReg 2 0x0000000000000001)) = some 6 := by decide

/-- spec/96 C13: `SYNC`. -/
theorem test_sync_c13 : pcAfter (step (atWord 0x0000000F)) = some (0x0000000080001004, none) := by decide

/-- spec/96 C14: `CACHE 0x15, 0(r1)`. -/
theorem test_cache_c14 : pcAfter (step (atWord 0xBC350000)) = some (0x0000000080001004, none) := by decide

/-- spec/96 C15: `NOP`. -/
theorem test_nop_c15 : pcAfter (step (atWord 0x00000000)) = some (0x0000000080001004, none) := by decide

/-- spec/96 C16: `SYSCALL`. -/
theorem test_syscall_c16 : faultOf (step (atWord 0x0000000C)) = some 8 := by decide

/-- spec/96 C17: `BREAK`. -/
theorem test_break_c17 : faultOf (step (atWord 0x0000000D)) = some 8 := by decide

/-- spec/96 C18: `ERET`. -/
theorem test_eret_c18 : faultOf (step (atWord 0x42000018)) = some 8 := by decide

/-- spec/96 C19: `TLBR`. -/
theorem test_tlbr_c19 : faultOf (step (atWord 0x42000001)) = some 8 := by decide

/-- spec/96 C20: `TLBWI`. -/
theorem test_tlbwi_c20 : faultOf (step (atWord 0x42000002)) = some 8 := by decide

/-- spec/96 C21: `TLBWR`. -/
theorem test_tlbwr_c21 : faultOf (step (atWord 0x42000006)) = some 8 := by decide

/-- spec/96 C22: `TLBP`. -/
theorem test_tlbp_c22 : faultOf (step (atWord 0x42000008)) = some 8 := by decide

/-- spec/96 C23: `COP1 (ADD.S f0, f0, f0)`. -/
theorem test_cop1_c23 : faultOf (step (atWord 0x46000000)) = some 8 := by decide

/-- spec/96 C24: `LWC1 r2, 0(r1)`. -/
theorem test_lwc1_c24 : faultOf (step ((atWord 0xC4220000).setReg 1 0x0000000080002001)) = some 8 := by decide

/-- by hand, R348: `LDC1 f2, 0(r1)`. -/
theorem test_ldc1_y2 : faultOf (step (atWord 0xD4220000)) = some 8 := by decide

/-- by hand, R348: `SWC1 f2, 0(r1)`. -/
theorem test_swc1_y3 : faultOf (step (atWord 0xE4220000)) = some 8 := by decide

/-- spec/96 C25: `SDC1 r2, 0(r1)`. -/
theorem test_sdc1_c25 : faultOf (step ((atWord 0xF4220000).setReg 1 0x00000000B0000000)) = some 8 := by decide
/-! ### The machine around the instructions (spec/95) -/

/-- spec/96 J37: a control transfer in a delay-slot cycle, taken or not. -/
theorem test_slot_j37 :
    faultOf (step { (((atWord 0x10220003).setReg 1 5).setReg 2 5) with bd := some 0x80003000 }) = some 10 ∧
    leftByFault (step { (((atWord 0x10220003).setReg 1 5).setReg 2 5) with bd := some 0x80003000 }) =
      some (0x80001000, none, 0, 0) := by decide

/-- spec/96 J39: an ordinary instruction in a delay-slot cycle ends at the target. -/
theorem test_slot_j39 : pcAfter (step { atWord 0x24010007 with bd := some 0x80003000 }) = some (0x80003000, none) := by decide

/-- spec/95 F1 to F3: the faults of a fetch. -/
theorem test_fetch_f1_f3 :
    faultOf (step { atWord 0x24010007 with pc := 0x80001002 }) = some 2 ∧
    faultOf (step { atWord 0x24010007 with pc := 0x1000 }) = some 3 ∧
    faultOf (step { atWord 0x24010007 with pc := 0x80400000 }) = some 4 := by decide

/-- spec/95 F5: only the low half of `pc` reaches the bus. -/
theorem test_fetch_f5 :
    gprAfter (step { atWord 0x24010007 with pc := 0x1234567880001000 }) 1 = some 7 ∧
    pcAfter (step { atWord 0x24010007 with pc := 0x1234567880001000 }) = some (0x1234567880001004, none) := by decide

/-- spec/95 F6: a faulted step keeps Count's increment and leaves `CYCLES`. -/
theorem test_fault_f6 :
    leftByFault (step ({ atWord 0x0000000C with cycles := 1 }.setCop0 9 5)) = some (0x80001000, none, 1, 6) := by decide

/-- spec/95 Q4: an undecodable word in a delay-slot cycle. -/
theorem test_fault_q4 :
    faultOf (step { atWord 0x0000000E with bd := some 0x80001020 }) = some 1 ∧
    leftByFault (step { atWord 0x0000000E with bd := some 0x80001020 }) = some (0x80001000, none, 0, 0) := by decide

/-- spec/95 K3: Count wraps. -/
theorem test_count_k3 :
    cop0After (step ({ atWord 0 with cycles := 1 }.setCop0 9 0xFFFFFFFFFFFFFFFF)) 9 = some 0 := by decide

/-- spec/95 T10 to T13, T15: entries with 16 KiB pages, a half that is not valid, the next entry. -/
def twoEntries : State :=
  let first : TlbEntry := ⟨0x20000, 0x003, 0x104, true, 0x008, false⟩
  let second : TlbEntry := ⟨0x20000, 0x003, 0, false, 0x300, true⟩
  { State.reset with tlb := (State.reset.tlb.set 0 first).set 1 second }

theorem test_table_t15 :
    Machine.translate twoEntries 0x40000000 = some 0x104000 ∧ Machine.translate twoEntries 0x40003FFF = some 0x107FFF ∧
    Machine.translate twoEntries 0x40004010 = some 0x300010 ∧ Machine.translate twoEntries 0x40008000 = none := by decide

/-- spec/95 T1 to T5: the direct segments, and a miss. -/
theorem test_segments_t1_t5 :
    Machine.translate State.reset 0x80000000 = some 0 ∧ Machine.translate State.reset 0x9FFFFFFF = some 0x1FFFFFFF ∧
    Machine.translate State.reset 0xA0000000 = some 0 ∧ Machine.translate State.reset 0xBFFFFFFF = some 0x1FFFFFFF ∧
    Machine.translate State.reset 0x7FFFFFFF = none ∧ Machine.translate State.reset 0xC0000000 = none := by decide

/-- The bytes at physical `0x2000` after a copy that completes. -/
def copied (src dst : Word) (len : Nat) : Option (List Byte) := bytesAfter (dma (atWord 0) src dst len)

/-- spec/95 D1, D2 (on the bytes of `atWord`), D3, D4. -/
theorem test_dma_d1 :
    copied 0x80002000 0x80002002 6 = some [0x11, 0x22, 0x11, 0x22, 0x11, 0x22, 0x11, 0x22] := by decide

theorem test_dma_d2 :
    copied 0x80002002 0x80002000 4 = some [0x33, 0x44, 0x55, 0x66, 0x55, 0x66, 0x77, 0x88] := by decide

theorem test_dma_d3_d4 :
    copied 0xB0000010 0x80002000 4 = some [0x10, 0x11, 0x12, 0x13, 0x55, 0x66, 0x77, 0x88] ∧
    faultOf (dma (atWord 0) 0x80002000 0xB0000000 4) = some 5 := by decide +kernel

/-- A window at physical `0x04600000` (kseg1 `0xA4600000`): source at 0, destination at 4, length at 8, status at 16, a plain
latch at 20; a fault-trap window and open bus after it (20_memory.md R89, R90, R93 to R97). -/
def deviceMap : List Mapping :=
  Config.refMap ++ [⟨.device 0 [⟨0, .addressLatch⟩, ⟨4, .addressLatch⟩, ⟨8, .dmaLength 0 4⟩, ⟨16, .status⟩, ⟨20, .latch⟩],
    "pi", 0x04600000, 0x04700000⟩, ⟨.faultTrap, "mi", 0x04300000, 0x04400000⟩, ⟨.openBus, "open", 0x05000000, 0x05000100⟩]

/-- The setting of spec/96 with these windows, the source latch at `0x80002000`, the destination latch at `0x80002002`. -/
def atWindow (w : Nat) : State :=
  ({ atWord w with
      map := deviceMap
      dev := Memory.writeBytes [] 0x04600000 [0x80, 0x00, 0x20, 0x00, 0x80, 0x00, 0x20, 0x02] }.setReg 1 0xA4600000).setReg 2 6

/-- 20_memory.md R94, R96: `SW r2, 8(r1)` copies before it completes (the bytes of spec/95 D1). -/
theorem test_window_length :
    bytesAfter (step (atWindow 0xAC220008)) = some [0x11, 0x22, 0x11, 0x22, 0x11, 0x22, 0x11, 0x22] := by decide

/-- 20_memory.md R93, R95, R97: a latch reads back, a status reads 0, the fault-trap window refuses. -/
theorem test_window_registers :
    gprAfter (exec (.lw 3 20 1) { atWindow 0 with dev := Memory.writeBytes [] 0x04600014 [1, 2, 3, 4] }) 3 =
      some 0x01020304 ∧
    gprAfter (exec (.lw 3 16 1) ((atWindow 0).setReg 3 9)) 3 = some 0 ∧
    faultOf (exec (.lw 3 0 1) ((atWindow 0).setReg 1 0xA4300000)) = some 7 := by decide

/-- A handler that adds the bytes written to its window into a latch at `0x04600020`. -/
def summing : Handler := fun a s _ =>
  let sum : Byte := Memory.read s.dev 0x04600020 + (a.value.getD 0).setWidth 8
  some (.next (0, { s with dev := Memory.write s.dev 0x04600020 sum }))

/-- The value of an access through a handler that returns. -/
def answered (o : Option (Bus Dword)) : Option Dword :=
  match o with
  | some (.next r) => some r.1
  | some (.fault _) | some (.refused _) | none => none

/-- 20_memory.md R91, R96: a handler that copies two bytes into that window, whose side effects fire per byte, and then
answers from the DEV they leave. -/
theorem test_handler_copies :
    answered (runDevice summing (.copy [] ⟨0x80002000, 0xA4600040, 2⟩ fun dev =>
      .finish ⟨[], false, (Memory.read dev 0x04600020).setWidth 64⟩) (atWindow 0) (.deviceFault 0 0 1 .read)) =
    some (0x11 + 0x22) := by decide

/-- 20_memory.md R96, R377: the fault of a byte ends the handler's copy and is its access's fault; so does a refusal. -/
theorem test_handler_faults :
    (runDevice summing (.copy [] ⟨0x80002000, 0xB0000000, 2⟩ fun _ => .finish ⟨[], false, 0⟩) (atWindow 0)
      (.deviceFault 0 0 1 .read)).bind faultOf = some 5 ∧
    (runDevice summing (.finish ⟨[], true, 0⟩) (atWindow 0) (.deviceFault 0 0 1 .read)).bind faultOf = some 7 := by decide

/-- 20_memory.md R89: open bus reads as all ones. -/
theorem test_open_bus :
    gprAfter (exec (.lwu 3 0 1) ((atWindow 0).setReg 1 0xA5000000)) 3 = some 0x00000000FFFFFFFF := by decide

/-- 70_reset_and_hazards.md R404: what the host may write before the first step, and what it may not. -/
theorem test_launch :
    (match launch State.reset [.setReg 1 5, .setByte 0x1000 0x24, .setPc 0x80002000] with
      | .ok s => some (s.reg 1, Memory.read s.mem 0x1000, s.pc) | .error _ => none) = some (5, 0x24, 0x80002000) ∧
    (match launch State.reset [.setReg 0 5] with | .ok s => some (s.reg 0) | .error _ => none) = some 0 ∧
    (match launch State.reset [.setTlb 0 ⟨0, 1, 0, true, 0, true⟩] with | .ok _ => none | .error e => some e) =
      some .illegalPageMask ∧
    (match createSession [⟨.ram, "odd", 0, 12⟩] 0 with | .ok _ => none | .error e => some e) = some .illFormedMap := by decide

/-! ### For each statement with hypotheses, states and operands that meet them -/

/-- An outcome that completes. -/
def isNext {α : Type} (o : Host.Outcome α Fault Refusal) : Bool :=
  match o with
  | .next _ => true
  | .fault _ | .refused _ => false

/-- The value part of an outcome with a value and a state. -/
def valueOf {α : Type} (o : Bus α) : Option α :=
  match o with
  | .next r => some r.1
  | .fault _ | .refused _ => none

/-- Word and instruction of a fetch. -/
def decodedOf (o : Host.Outcome (Word × Instr × State) Fault Refusal) : Option (Word × Instr) :=
  match o with
  | .next r => some (r.1, r.2.1)
  | .fault _ | .refused _ => none

theorem next_of {α : Type} {o : Host.Outcome α Fault Refusal} (h : isNext o = true) : ∃ t, o = .next t := by
  cases o with
  | next t => exact ⟨t, rfl⟩
  | fault f => exact absurd h (by simp [isNext])
  | refused r => exact absurd h (by simp [isNext])

theorem fault_of {α : Type} {o : Host.Outcome α Fault Refusal} {n : Nat} (h : faultOf o = some n) : ∃ f, o = .fault f := by
  cases o with
  | next t => exact absurd h (by simp [faultOf])
  | fault f => exact ⟨f, rfl⟩
  | refused r => exact absurd h (by simp [faultOf])

theorem value_of {α : Type} {o : Bus α} {v : α} (h : valueOf o = some v) : ∃ s', o = .next (v, s') := by
  cases o with
  | next r => exact ⟨r.2, by simp only [valueOf, Option.some.injEq] at h; rw [← h]⟩
  | fault f => exact absurd h (by simp [valueOf])
  | refused r => exact absurd h (by simp [valueOf])

theorem decoded_of {o : Host.Outcome (Word × Instr × State) Fault Refusal} {w : Word} {i : Instr}
    (h : decodedOf o = some (w, i)) : ∃ s', o = .next (w, i, s') := by
  cases o with
  | next r =>
    simp only [decodedOf, Option.some.injEq, Prod.mk.injEq] at h
    exact ⟨r.2.2, by rw [← h.1, ← h.2]⟩
  | fault f => exact absurd h (by simp [decodedOf])
  | refused r => exact absurd h (by simp [decodedOf])

/-! #### Encoding -/

theorem witness_OnlyThreeRowPairsOverlap :
    (∃ d e : Descriptor, table[0]? = some d ∧ table[3]? = some e ∧ 0#32 &&& d.mask = d.expected ∧ 0#32 &&& e.mask = e.expected) ∧
    (∃ d e : Descriptor, table[1]? = some d ∧ table[55]? = some e ∧ 0x10000003#32 &&& d.mask = d.expected ∧
      0x10000003#32 &&& e.mask = e.expected) ∧
    (∃ d e : Descriptor, table[2]? = some d ∧ table[46]? = some e ∧ 0x04010003#32 &&& d.mask = d.expected ∧
      0x04010003#32 &&& e.mask = e.expected) :=
  have row {k : Nat} (h : k < table.length) : table[k]? = some table[k] := List.getElem?_eq_getElem h
  ⟨⟨_, _, row (by decide), row (by decide), by decide, by decide⟩,
    ⟨_, _, row (by decide), row (by decide), by decide, by decide⟩,
    ⟨_, _, row (by decide), row (by decide), by decide, by decide⟩⟩

theorem witness_DecodeAfterEncode :
    (Instr.addi 31 30 (-1)).wf = true ∧ (Instr.sll 0 0 1).wf = true ∧ (Instr.beq 0 1 (-32768)).wf = true ∧
    (Instr.bgez 1 0).wf = true ∧ (Instr.jal 0x3FFFFFF).wf = true := by decide

theorem witness_EncodeAfterDecode : decodeWord 0xFFFFFFFF = some (.sd 31 (-1) 31) ∧ decodeWord 0 = some .nop := by decide

theorem witness_UnassignedWordsDoNotDecode :
    (fieldOpcode 0x48000000).toNat = 0x12 ∧ (fieldOpcode 0xF8000000).toNat = 0x3E ∧
    ((fieldOpcode 0x00000001).toNat = 0 ∧ (fieldFunct 0x00000001).toNat = 1) ∧
    ((fieldOpcode 0x0000003D).toNat = 0 ∧ (fieldFunct 0x0000003D).toNat = 0x3D) ∧
    ((fieldOpcode 0x04040000).toNat = 1 ∧ (fieldRt 0x04040000).toNat = 4 ∧ (fieldRt 0x041F0000).toNat = 31) ∧
    ((fieldOpcode 0x42000010).toNat = 0x10 ∧ (fieldRs 0x42000010).toNat = 0x10 ∧
      0x42000010#32 ∉ [0x42000001#32, 0x42000002#32, 0x42000006#32, 0x42000008#32, 0x42000018#32]) ∧
    ((fieldOpcode 0x40000001).toNat = 0x10 ∧ (fieldRs 0x40000001).toNat = 0 ∧ (0x40000001#32).toNat % 2 ^ 11 ≠ 0 ∧
      (fieldRs 0x40A00400).toNat = 5 ∧ (0x40A00400#32).toNat % 2 ^ 11 ≠ 0) := by decide

/-! #### The step. `atWord 0x24010007` holds `ADDIU r1, r0, 7`, `atWord 0x08000400` a jump, `atWord 0xC` a `SYSCALL`. -/

theorem witness_StepRunsDecodedInstruction_fetched :
    configRefusal (atWord 0x24010007) = none ∧
    (∃ s', memRead (beginStep (atWord 0x24010007)) (atWord 0x24010007).pc 4 .fetch = .next (0x24010007#64, s')) ∧
    decodeWord (low32 0x24010007#64) = some (.addiu 1 0 7) ∧ (atWord 0x24010007).bd = none :=
  ⟨by decide, value_of (by decide), by decide, by decide⟩

theorem witness_StepRunsDecodedInstruction_slot :
    let s : State := { atWord 0x24010007 with bd := some 0x80003000 }
    configRefusal s = none ∧ (∃ s', memRead (beginStep s) s.pc 4 .fetch = .next (0x24010007#64, s')) ∧
    decodeWord (low32 0x24010007#64) = some (.addiu 1 0 7) ∧ (Instr.addiu 1 0 7).kind ≠ .control :=
  ⟨by decide, value_of (by decide), by decide, by decide⟩

theorem witness_StepRunsDecodedInstruction_bytes :
    let s := atWord 0x24010007
    configRefusal s = none ∧ s.pc.toNat % 4 = 0 ∧ translate s (low32 s.pc) = some 0x1000 ∧ s.peek 0x1000 = some 0x24 ∧
    s.peek (0x1000 + 1#32) = some 0x01 ∧ s.peek (0x1000 + 2#32) = some 0x00 ∧ s.peek (0x1000 + 3#32) = some 0x07 ∧
    decodeBytes [0x24, 0x01, 0x00, 0x07] = .ok (.addiu 1 0 7, []) ∧ s.bd = none := by decide

theorem witness_step_completes_and_faults :
    (∃ t, step (atWord 0x24010007) = .next t) ∧ (∃ f, step (atWord 0x0000000C) = .fault f) :=
  ⟨next_of (by decide), fault_of (n := 8) (by decide)⟩

/-- Of `RandomAfterEveryStep`, `CyclesCountCompletedSteps` and every statement about each step's outcome. -/
theorem witness_RandomAfterEveryStep :
    (∃ t, step (atWord 0x24010007) = .next t) ∧ (∃ f, step (atWord 0x0000000C) = .fault f) :=
  witness_step_completes_and_faults

theorem witness_CyclesCountCompletedSteps :
    (∃ t, step { atWord 0 with cycles := 0xFFFFFFFFFFFFFFFF } = .next t) ∧
    (∃ f, step { atWord 0xC with cycles := 0xFFFFFFFFFFFFFFFF } = .fault f) :=
  ⟨next_of (by decide), fault_of (n := 8) (by decide)⟩

theorem witness_CountStepsOnOddCycles_other :
    (∃ s', fetchDecode (beginStep { atWord 0x24010007 with cycles := 1 }) none = .next (0x24010007, .addiu 1 0 7, s')) ∧
    (∃ t, step { atWord 0x24010007 with cycles := 1 } = .next t) ∧ (∃ f, step { atWord 0xC with cycles := 1 } = .fault f) :=
  ⟨decoded_of (by decide), next_of (by decide), fault_of (n := 8) (by decide)⟩

theorem witness_CountStepsOnOddCycles_moves :
    (∃ s', fetchDecode (beginStep (atWord 0x40824800)) none = .next (0x40824800, .mtc0 2 9, s')) ∧
    (∃ t, step (atWord 0x40824800) = .next t) ∧
    (∃ s', fetchDecode (beginStep (atWord 0x40A24800)) none = .next (0x40A24800, .dmtc0 2 9, s')) ∧
    (∃ t, step (atWord 0x40A24800) = .next t) :=
  ⟨decoded_of (by decide), next_of (by decide), decoded_of (by decide), next_of (by decide)⟩

theorem witness_DelaySlotCycleEndsAtTarget :
    (∃ t, step { atWord 0x24010007 with bd := some 0x80003000 } = .next t) ∧
    (∃ f, step { atWord 0x0000000E with bd := some 0x80003000 } = .fault f) :=
  ⟨next_of (by decide), fault_of (n := 1) (by decide)⟩

theorem witness_ControlInDelaySlotFaults :
    let s : State := { atWord 0x10220003 with bd := some 0x80003000 }
    configRefusal s = none ∧ (∃ s', fetchDecode (beginStep s) s.bd = .next (0x10220003, .beq 1 2 3, s')) ∧
    (Instr.beq 1 2 3).kind = .control :=
  ⟨by decide, decoded_of (by decide), by decide⟩

theorem witness_PendingTargetIsOfTakenTransfer :
    (∃ s', fetchDecode (beginStep (atWord 0x10220003)) none = .next (0x10220003, .beq 1 2 3, s')) ∧
    (∃ t, step (atWord 0x10220003) = .next t) ∧ (∃ t, step ((atWord 0x10220003).setReg 1 5) = .next t) ∧
    (Instr.beq 1 2 3).kind = .control ∧ Taken (atWord 0x10220003) (.beq 1 2 3) ∧
    ¬ Taken ((atWord 0x10220003).setReg 1 5) (.beq 1 2 3) ∧
    (∃ s', fetchDecode (beginStep (atWord 0x24010007)) none = .next (0x24010007, .addiu 1 0 7, s')) ∧
    (∃ t, step (atWord 0x24010007) = .next t) ∧ (Instr.addiu 1 0 7).kind ≠ .control :=
  ⟨decoded_of (by decide), next_of (by decide), next_of (by decide), by decide, rfl,
    show ¬ (State.setReg (atWord 0x10220003) 1 5).reg 1 = (State.setReg (atWord 0x10220003) 1 5).reg 2 by decide,
    decoded_of (by decide), next_of (by decide), by decide⟩

theorem witness_KindDecidesAdvance :
    ((Instr.addiu 1 0 7).kind = .normal ∧ ∃ t, exec (.addiu 1 0 7) State.reset = .next t) ∧
    (Instr.bne 1 0 7).kind = .control ∧ Instr.eret.kind = .unsupported :=
  ⟨⟨by decide, next_of (by decide)⟩, by decide, by decide⟩

theorem noDevices_refMap : NoDevices Config.refMap := by
  intro m hm id regs
  simp only [Config.refMap, List.mem_cons, List.not_mem_nil, or_false] at hm
  rcases hm with h | h | h | h | h <;> simp [h]

theorem witness_FaultLeavesState :
    (∃ f, step { atWord 0xC with bd := some 0x80003000, cycles := 1 } = .fault f) ∧ NoDevices (atWord 0xC).map :=
  ⟨fault_of (n := 8) (by decide), noDevices_refMap⟩

theorem witness_FaultRecordNamesInstruction :
    (∃ f, step (atWord 0xC) = .fault f) ∧ isNext (fetch (beginStep (atWord 0xC))) = true ∧
    (∃ f, step { atWord 0xC with pc := 0x80400000 } = .fault f) ∧
    isNext (fetch (beginStep { atWord 0xC with pc := 0x80400000 })) = false :=
  ⟨fault_of (n := 8) (by decide), by decide, fault_of (n := 4) (by decide), by decide⟩

theorem witness_UndecodableWordFaults :
    configRefusal (atWord 0x0000000E) = none ∧ (∃ s', fetch (beginStep (atWord 0x0000000E)) = .next (0x0000000E, s')) ∧
    (∀ d ∈ table, 0x0000000E#32 &&& d.mask ≠ d.expected) :=
  ⟨by decide, value_of (by decide), by decide⟩

theorem witness_MisalignedFetchFaults :
    (∀ k ∈ [1#64, 2#64, 3#64], configRefusal { State.reset with pc := 0x80001000#64 + k } = none ∧
      (0x80001000#64 + k).toNat % 4 ≠ 0) ∧
    ((atWord 0x00200008).pc.toNat % 4 = 0 ∧
      (∃ s', fetchDecode (beginStep ((atWord 0x00200008).setReg 1 0x80003002)) none = .next (0x00200008, .jr 1, s')) ∧
      ∃ t, step ((atWord 0x00200008).setReg 1 0x80003002) = .next t) :=
  ⟨by simp; decide, by decide, decoded_of (by decide), next_of (by decide)⟩

/-- Every clause: a misaligned halfword, word and doubleword; a miss; a hole after RAM and at the top; ROM's first and last
bytes; a fault-trap window. -/
theorem witness_AccessFaultsInOrder :
    (0x80000001 % 2 ^ 32 % 2 ≠ 0 ∧ 0x80000002 % 2 ^ 32 % 4 ≠ 0 ∧ 0x80000004 % 2 ^ 32 % 8 ≠ 0) ∧
    (translate State.reset (low32 0x7FFFFFFF#64) = none ∧ translate State.reset (low32 0xC0000000#64) = none) ∧
    (translate State.reset (low32 0x80400000#64) = some 0x00400000 ∧
      ∀ m ∈ State.reset.map, ¬ (m.lo ≤ 0x00400000 ∧ 0x00400000 < m.hi)) ∧
    (translate State.reset (low32 0xBFFFFFF8#64) = some 0x1FFFFFF8 ∧
      ∀ m ∈ State.reset.map, ¬ (m.lo ≤ 0x1FFFFFF8 ∧ 0x1FFFFFF8 < m.hi)) ∧
    Lands State.reset 0xB0000000 8 0x10000000 ⟨.rom Config.refRom, "cart", 0x10000000, 0x10100000⟩ ∧
    Lands State.reset 0xB00FFFFF 1 0x100FFFFF ⟨.rom Config.refRom, "cart", 0x10000000, 0x10100000⟩ ∧
    Lands { State.reset with map := deviceMap } 0xA4300000 4 0x04300000 ⟨.faultTrap, "mi", 0x04300000, 0x04400000⟩ :=
  ⟨by decide, by decide, by decide, by decide, ⟨by decide, by decide, rfl⟩, ⟨by decide, by decide, rfl⟩,
    ⟨by decide, by decide, by decide⟩⟩

theorem witness_OnlyBadConfigurationsRefused :
    mapWf [⟨.ram, "odd", 0, 12⟩] = false ∧ mapWf [⟨.ram, "whole", 0, 0x100000000⟩] = true ∧
    mapWf [⟨.ram, "beyond", 0, 0x100000008⟩] = false ∧ mapWf [⟨.ram, "empty", 8, 8⟩] = false ∧
    mapWf State.reset.map = true ∧ mapWf (atWindow 0).map = true ∧
    (∃ i : Fin 32, (State.reset.tlb.set 31 ⟨0, 1, 0, true, 0, true⟩)[i].mask ∉ Config.pageMasks) ∧
    (∀ i : Fin 32, State.reset.tlb[i].mask ∈ Config.pageMasks) ∧ (∀ i : Fin 32, (atWindow 0).tlb[i].mask ∈ Config.pageMasks) :=
  ⟨by decide, by decide, by decide, by decide, by decide, by decide, ⟨31, by decide⟩, by decide, by decide⟩

/-! #### State and the bus -/

/-- Sums and differences that fit, and that do not. -/
theorem witness_RegisterZeroDiscardsWrites_trapping :
    let s := (State.reset.setReg 1 0x7FFFFFFF).setReg 2 0xFFFFFFFF80000000
    let d := (State.reset.setReg 1 0x7FFFFFFFFFFFFFFF).setReg 2 0x8000000000000000
    (Fits32 (s32 s 1 + (0#16).toInt) ∧ ¬ Fits32 (s32 s 1 + (1#16).toInt)) ∧
    (Fits64 (s64 d 1 + (0#16).toInt) ∧ ¬ Fits64 (s64 d 1 + (1#16).toInt)) ∧
    (Fits32 (s32 s 1 + s32 s 2) ∧ ¬ Fits32 (s32 s 1 + s32 s 1)) ∧ (Fits32 (s32 s 1 - s32 s 1) ∧ ¬ Fits32 (s32 s 1 - s32 s 2)) ∧
    (Fits64 (s64 d 1 + s64 d 2) ∧ ¬ Fits64 (s64 d 1 + s64 d 1)) ∧
    (Fits64 (s64 d 1 - s64 d 1) ∧ ¬ Fits64 (s64 d 1 - s64 d 2)) := by
  simp only [Fits32, Fits64]
  decide

/-- Accesses of every width that complete, and one that faults. -/
theorem witness_RegisterZeroDiscardsWrites_loads :
    let s := (atWord 0).setReg 1 0x80002000
    (∃ s', memRead s (effAddr s 1 0) 1 .read = .next (0x11#64, s')) ∧
    (∃ s', memRead s (effAddr s 1 0) 2 .read = .next (0x1122#64, s')) ∧
    (∃ s', memRead s (effAddr s 1 0) 4 .read = .next (0x11223344#64, s')) ∧
    (∃ s', memRead s (effAddr s 1 0) 8 .read = .next (0x1122334455667788#64, s')) ∧
    (∃ f, memRead s (effAddr s 0 0) 1 .read = .fault f) :=
  ⟨value_of (by decide), value_of (by decide), value_of (by decide), value_of (by decide), fault_of (n := 3) (by decide)⟩

theorem witness_RegisterZeroDiscardsWrites_partial :
    let s := (atWord 0).setReg 1 0x80002000
    (∃ s', readEach s (leftOf 4 (low32 (effAddr s 1 3))) = .next ([0x44], s')) ∧
    (∃ s', readEach s (rightOf 4 (low32 (effAddr s 1 0))) = .next ([0x11], s')) ∧
    (∃ s', readEach s (leftOf 8 (low32 (effAddr s 1 6))) = .next ([0x77, 0x88], s')) ∧
    (∃ s', readEach s (rightOf 8 (low32 (effAddr s 1 1))) = .next ([0x11, 0x22], s')) ∧
    (∃ f, readEach s (leftOf 4 (low32 (effAddr s 0 0))) = .fault f) :=
  ⟨value_of (by decide), value_of (by decide), value_of (by decide), value_of (by decide), fault_of (n := 3) (by decide)⟩

theorem witness_RegisterZeroDiscardsWrites_every :
    State.reset.gpr[0] = 0#64 ∧ ∃ t, exec (.jalr 0 1) State.reset = .next t := ⟨by decide, next_of (by decide)⟩

theorem witness_ResetLeavesZeros :
    lookup Config.refMap 0 = some ⟨.ram, "rdram", 0, 0x00400000⟩ ∧
    lookup Config.refMap 0x1FC007FF = some ⟨.bootRam, "pif_ram", 0x1FC007C0, 0x1FC00800⟩ ∧
    lookup Config.refMap 0x100FFFFF = some ⟨.rom Config.refRom, "cart", 0x10000000, 0x10100000⟩ := ⟨rfl, rfl, rfl⟩

theorem witness_ResetIsGood : mapWf Config.refMap = true ∧ mapWf deviceMap = true := by decide

/-- The state after reset is good. -/
theorem reset_good : State.reset.Good := ⟨by decide, by decide, by decide, by decide⟩

theorem witness_StepKeepsGoodStates : State.reset.Good ∧ (∃ t, step State.reset = .next t) ∧
    (∃ f, step { State.reset with pc := 0x1000 } = .fault f) :=
  ⟨reset_good, next_of (by decide), fault_of (n := 3) (by decide)⟩

theorem witness_StepKeepsConstants :
    (∃ t, step (atWord 0x24010007) = .next t) ∧
    lookup State.reset.map 0x10000000 = some ⟨.rom Config.refRom, "cart", 0x10000000, 0x10100000⟩ ∧
    (∃ f, step (atWord 0x0000000C) = .fault f) :=
  ⟨next_of (by decide), rfl, fault_of (n := 8) (by decide)⟩

theorem witness_DirectSegmentsSubtractBase :
    ∀ va ∈ [0x80000000#32, 0x9FFFFFFF#32], 0x80000000 ≤ va.toNat ∧ va.toNat < 0xA0000000 := by simp

theorem witness_DirectSegmentsSubtractBase_kseg1 :
    (∀ va ∈ [0xA0000000#32, 0xBFFFFFFF#32], 0xA0000000 ≤ va.toNat ∧ va.toNat < 0xC0000000) ∧
    (0#32).toNat < 2 ^ 29 ∧ (0x1FFFFFFF#32).toNat < 2 ^ 29 := ⟨by simp, by decide, by decide⟩

theorem witness_TableLookupTakesFirstHit :
    (∀ i : Fin 32, twoEntries.tlb[i].mask ∈ Config.pageMasks) ∧
    (∀ va ∈ [0#32, 0x7FFFFFFF#32, 0xC0000000#32, 0xFFFFFFFF#32], va.toNat < 0x80000000 ∨ 0xC0000000 ≤ va.toNat) ∧
    (∀ i : Fin 32, State.reset.tlb[i].v0 = false ∧ State.reset.tlb[i].v1 = false) :=
  ⟨by decide, by simp, by decide⟩

theorem witness_TableLookupTakesFirstHit_maps :
    EntryMaps twoEntries.tlb[0] 0x40003FFF 0x107FFF ∧ EntryMaps twoEntries.tlb[1] 0x40004010 0x300010 ∧
    translate twoEntries 0x40008000 = none :=
  ⟨⟨by decide, by decide⟩, ⟨by decide, by decide⟩, by decide⟩

/-- The RAM mapping of the reference configuration. -/
def ramMap : Mapping := ⟨.ram, "rdram", 0x00000000, 0x00400000⟩
/-- Its boot RAM. -/
def bootMap : Mapping := ⟨.bootRam, "pif_ram", 0x1FC007C0, 0x1FC00800⟩
/-- Its ROM. -/
def romMap : Mapping := ⟨.rom Config.refRom, "cart", 0x10000000, 0x10100000⟩
/-- The open bus of `deviceMap`. -/
def openMap : Mapping := ⟨.openBus, "open", 0x05000000, 0x05000100⟩

/-- Each width at the first and the last place of RAM, and in boot RAM. -/
theorem witness_RamAccessIsBigEndianBytes :
    Lands State.reset 0x80000000 1 0 ramMap ∧ Lands State.reset 0x803FFFFF 1 0x3FFFFF ramMap ∧
    Lands State.reset 0x80000000 2 0 ramMap ∧ Lands State.reset 0x803FFFFE 2 0x3FFFFE ramMap ∧
    Lands State.reset 0x80000000 4 0 ramMap ∧ Lands State.reset 0x803FFFFC 4 0x3FFFFC ramMap ∧
    Lands State.reset 0x80000000 8 0 ramMap ∧ Lands State.reset 0x803FFFF8 8 0x3FFFF8 ramMap ∧
    Lands State.reset 0xBFC007F8 8 0x1FC007F8 bootMap ∧ IsRam ramMap ∧ IsRam bootMap := by
  refine ⟨?_, ?_, ?_, ?_, ?_, ?_, ?_, ?_, ?_, .inl rfl, .inr rfl⟩ <;> exact ⟨by decide, by decide, by decide⟩

theorem witness_NextFetchSeesStore :
    let s := (atWord 0).setReg 1 0x80001000
    Lands s (effAddr s 1 0) 4 0x1000 ramMap ∧ Lands s 0xA0001000 4 0x1000 ramMap ∧ IsRam ramMap ∧
    ∃ t, exec (.sw 2 0 1) s = .next t :=
  ⟨⟨by decide, by decide, by decide⟩, ⟨by decide, by decide, by decide⟩, .inl rfl, next_of (by decide)⟩

theorem witness_RomReadsAndRefusesWrites :
    Lands State.reset 0xB0000000 1 0x10000000 romMap ∧ Lands State.reset 0xB0000000 2 0x10000000 romMap ∧
    Lands State.reset 0xB0000000 4 0x10000000 romMap ∧ Lands State.reset 0xB00FFFF8 8 0x100FFFF8 romMap ∧
    romMap.kind = .rom Config.refRom := by
  refine ⟨?_, ?_, ?_, ?_, rfl⟩ <;> exact ⟨by decide, by decide, rfl⟩

theorem witness_OpenBusAndFaultTrap :
    let s : State := { State.reset with map := deviceMap }
    Lands s 0xA5000000 1 0x05000000 openMap ∧ Lands s 0xA50000F8 8 0x050000F8 openMap ∧ openMap.kind = .openBus ∧
    Lands s 0xA4300000 4 0x04300000 ⟨.faultTrap, "mi", 0x04300000, 0x04400000⟩ := by
  refine ⟨?_, ?_, rfl, ?_⟩ <;> exact ⟨by decide, by decide, by decide⟩

theorem witness_UpperAddressBitsIgnored : (0x1234567880001000#64).toNat % 2 ^ 32 = (0xFFFFFFFF80001000#64).toNat % 2 ^ 32 := by
  decide

/-- Copies that overlap, a copy to the end of RAM, and one of no bytes at the bound. -/
theorem witness_DmaCopiesByteByByte :
    (0x2000 + 6 ≤ 2 ^ 29 ∧ 0x3FFFFA + 6 ≤ 2 ^ 29 ∧ 2 ^ 29 + 0 ≤ 2 ^ 29) ∧
    (∀ p ∈ [0x2000, 0x2002, 0x3FFFFA], ∀ i < 6, lookup State.reset.map (BitVec.ofNat 32 (p + i)) = some ramMap) ∧
    IsRam ramMap :=
  ⟨by decide, by decide, .inl rfl⟩

/-- The window of `deviceMap`. -/
def piRegs : List DeviceReg := [⟨0, .addressLatch⟩, ⟨4, .addressLatch⟩, ⟨8, .dmaLength 0 4⟩, ⟨16, .status⟩, ⟨20, .latch⟩]

theorem witness_LengthWriteCopies :
    Lands (atWindow 0) (effAddr (atWindow 0) 1 8) 4 0x04600008 ⟨.device 0 piRegs, "pi", 0x04600000, 0x04700000⟩ ∧
    regAt piRegs ((0x04600008#32).toNat - 0x04600000) 4 = some (.dmaLength 0 4) ∧
    (∃ t, dma (atWindow 0) 0x80002000 0x80002002 6 = .next t) ∧
    (∃ f, dma (atWindow 0) 0x80002000 0xB0000000 6 = .fault f) :=
  ⟨⟨by decide, by decide, by decide⟩, by decide, next_of (by decide), fault_of (n := 5) (by decide)⟩

theorem witness_WindowRegistersLatchAndSynthesize :
    (∀ o ∈ [0#16, 16#16, 20#16], Lands (atWindow 0) (effAddr (atWindow 0) 1 o) 4 (0x04600000#32 + o.setWidth 32)
      ⟨.device 0 piRegs, "pi", 0x04600000, 0x04700000⟩) ∧
    regAt piRegs 0 4 = some .addressLatch ∧ regAt piRegs 16 4 = some .status ∧ regAt piRegs 20 4 = some .latch := by
  refine ⟨?_, by decide, by decide, by decide⟩
  intro o ho
  simp only [List.mem_cons, List.not_mem_nil, or_false] at ho
  rcases ho with rfl | rfl | rfl <;> exact ⟨by decide, by decide, by decide⟩

/-! #### The instructions -/

/-- The largest sum that fits, and one more. -/
theorem witness_TrappingImmediateAdds :
    let fits := State.reset.setReg 1 0x7FFFFFFE
    let beyond := State.reset.setReg 1 0x7FFFFFFF
    (-(2 ^ 31) ≤ s32 fits 1 + (1#16).toInt ∧ s32 fits 1 + (1#16).toInt ≤ 2 ^ 31 - 1) ∧
    ¬ (-(2 ^ 31) ≤ s32 beyond 1 + (1#16).toInt ∧ s32 beyond 1 + (1#16).toInt ≤ 2 ^ 31 - 1) := by decide

theorem witness_TrappingImmediateAdds_doubleword :
    let fits := State.reset.setReg 1 0x8000000000000001
    let beyond := State.reset.setReg 1 0x8000000000000000
    (-(2 ^ 63) ≤ s64 fits 1 + (-1#16).toInt ∧ s64 fits 1 + (-1#16).toInt ≤ 2 ^ 63 - 1) ∧
    ¬ (-(2 ^ 63) ≤ s64 beyond 1 + (-1#16).toInt ∧ s64 beyond 1 + (-1#16).toInt ≤ 2 ^ 63 - 1) := by decide

theorem witness_TrappingRegisterArithmetic :
    let s := (State.reset.setReg 1 0x7FFFFFFF).setReg 2 1
    ¬ (-(2 ^ 31) ≤ s32 s 1 + s32 s 2 ∧ s32 s 1 + s32 s 2 ≤ 2 ^ 31 - 1) ∧
    (-(2 ^ 31) ≤ s32 s 1 + s32 s 0 ∧ s32 s 1 + s32 s 0 ≤ 2 ^ 31 - 1) ∧
    (-(2 ^ 31) ≤ s32 s 1 - s32 s 2 ∧ s32 s 1 - s32 s 2 ≤ 2 ^ 31 - 1) ∧
    (let n := s.setReg 2 0x80000000; ¬ (-(2 ^ 31) ≤ s32 n 0 - s32 n 2 ∧ s32 n 0 - s32 n 2 ≤ 2 ^ 31 - 1)) := by decide

theorem witness_TrappingRegisterArithmetic_doubleword :
    let s := (State.reset.setReg 1 0x7FFFFFFFFFFFFFFF).setReg 2 1
    ¬ (-(2 ^ 63) ≤ s64 s 1 + s64 s 2 ∧ s64 s 1 + s64 s 2 ≤ 2 ^ 63 - 1) ∧
    (-(2 ^ 63) ≤ s64 s 1 + s64 s 0 ∧ s64 s 1 + s64 s 0 ≤ 2 ^ 63 - 1) ∧
    (-(2 ^ 63) ≤ s64 s 1 - s64 s 2 ∧ s64 s 1 - s64 s 2 ≤ 2 ^ 63 - 1) ∧
    (let n := s.setReg 2 0x8000000000000000; ¬ (-(2 ^ 63) ≤ s64 n 0 - s64 n 2 ∧ s64 n 0 - s64 n 2 ≤ 2 ^ 63 - 1)) := by decide

theorem witness_WordShifts :
    0x00000040#32 &&& 0xFFE0003F = 0x00000000 ∧ 0x00000040#32 ≠ 0 ∧ 0xFFE0003F#32 &&& 0xFFE0003F ≠ 0 ∧
    0x001FFFC2#32 &&& 0xFFE0003F = 0x00000002 := by decide

/-- A divisor of zero, the wrapping quotient, an ordinary one. -/
theorem witness_DivideLeavesQuotientAndRemainder :
    let s := ((State.reset.setReg 1 0x80000000).setReg 2 0xFFFFFFFF).setReg 3 7
    s32 s 0 = 0 ∧ (s32 s 2 ≠ 0 ∧ s32 s 1 = -(2 ^ 31) ∧ s32 s 2 = -1) ∧
    (s32 s 3 ≠ 0 ∧ ¬ (s32 s 1 = -(2 ^ 31) ∧ s32 s 3 = -1)) ∧ u32 s 0 = 0 ∧ u32 s 2 ≠ 0 := by decide

/-- Both sides of each condition, and the words the two `B` rows leave to `BEQ` and `BGEZ`. -/
theorem witness_BranchesTakeOrSkip :
    (0x10220003#32 &&& 0xFC000000 = 0x10000000 ∧ 0x10220003#32 &&& 0xFFFF0000 ≠ 0x10000000) ∧
    (0x04210003#32 &&& 0xFC1F0000 = 0x04010000 ∧ 0x04210003#32 &&& 0xFFFF0000 ≠ 0x04010000) ∧
    (let s := (State.reset.setReg 1 0x8000000000000000).setReg 2 1
     s.reg 1 ≠ s.reg 2 ∧ s.reg 1 = s.reg 1 ∧ s64 s 1 < 0 ∧ s64 s 0 ≤ 0 ∧ 0 ≤ s64 s 0 ∧ 0 < s64 s 2) := by decide

/-- Each width, RAM, boot RAM, ROM and open bus. -/
theorem witness_AlignedLoadsExtendBytes :
    let s : State := ({ atWord 0 with map := deviceMap }).setReg 1 0x80002007
    (∀ m ∈ [ramMap, bootMap, romMap, openMap], ReadsPlainly m) ∧
    Lands s (effAddr s 1 0) 1 0x2007 ramMap ∧ Lands s (effAddr s 1 (-1)) 2 0x2006 ramMap ∧
    Lands s (effAddr s 1 (-3)) 4 0x2004 ramMap ∧ Lands s (effAddr s 1 (-7)) 8 0x2000 ramMap ∧
    Lands (s.setReg 1 0xB0000000) (effAddr (s.setReg 1 0xB0000000) 1 8) 8 0x10000008 romMap ∧
    Lands (s.setReg 1 0xA5000000) (effAddr (s.setReg 1 0xA5000000) 1 4) 4 0x05000004 openMap := by
  refine ⟨?_, ?_, ?_, ?_, ?_, ?_, ?_⟩
  · intro m hm
    simp only [List.mem_cons, List.not_mem_nil, or_false] at hm
    rcases hm with rfl | rfl | rfl | rfl
    · exact .inl (.inl rfl)
    · exact .inl (.inr rfl)
    · exact .inr (.inr ⟨_, rfl⟩)
    · exact .inr (.inl rfl)
  all_goals exact ⟨by decide, by decide, rfl⟩

theorem witness_AlignedStoresWriteBytes :
    let s : State := ({ atWord 0 with map := deviceMap }).setReg 1 0x803FFFFF
    Lands s (effAddr s 1 0) 1 0x3FFFFF ramMap ∧ Lands s (effAddr s 1 (-1)) 2 0x3FFFFE ramMap ∧
    Lands s (effAddr s 1 (-3)) 4 0x3FFFFC ramMap ∧ Lands s (effAddr s 1 (-7)) 8 0x3FFFF8 ramMap ∧ IsRam ramMap ∧
    Lands (s.setReg 1 0xA5000000) (effAddr (s.setReg 1 0xA5000000) 1 8) 8 0x05000008 openMap ∧ openMap.kind = .openBus := by
  refine ⟨?_, ?_, ?_, ?_, .inl rfl, ?_, rfl⟩ <;> exact ⟨by decide, by decide, by decide⟩

theorem witness_LoadsAndStoresMakeOneAccess :
    let s := (atWord 0).setReg 1 0x80002000
    (∀ n ∈ [1, 2, 4, 8], isNext (memRead s (effAddr s 1 0) n .read) = true ∧
      isNext (memWrite s (effAddr s 1 0) n (s.reg 2)) = true) ∧
    (∀ n ∈ [1, 2, 4, 8], isNext (memRead s (effAddr s 0 0x1000) n .read) = false) ∧
    (∃ f, memWrite s (effAddr s 0 0x1000) 4 (s.reg 2) = .fault f) :=
  ⟨by decide, by decide, fault_of (n := 3) (by decide)⟩

/-- The first, a middle and the last byte of a block. -/
theorem witness_PartialLoadsMergeBytes :
    let s := (atWord 0).setReg 1 0x80002000
    mapWf s.map = true ∧ ReadsPlainly ramMap ∧ Lands s (effAddr s 1 0) 1 0x2000 ramMap ∧
    Lands s (effAddr s 1 3) 1 0x2003 ramMap ∧ Lands s (effAddr s 1 7) 1 0x2007 ramMap := by
  refine ⟨by decide, .inl (.inl rfl), ?_, ?_, ?_⟩ <;> exact ⟨by decide, by decide, by decide⟩

theorem witness_PartialStoresWriteCoveredBytes :
    let s := (atWord 0).setReg 1 0x803FFFF8
    mapWf s.map = true ∧ IsRam ramMap ∧ Lands s (effAddr s 1 0) 1 0x3FFFF8 ramMap ∧
    Lands s (effAddr s 1 5) 1 0x3FFFFD ramMap ∧ Lands s (effAddr s 1 7) 1 0x3FFFFF ramMap := by
  refine ⟨by decide, .inl rfl, ?_, ?_, ?_⟩ <;> exact ⟨by decide, by decide, by decide⟩

theorem witness_PartialWordMovesByteByByte :
    let s := atWord 0
    isNext (readEach s (leftOf 4 0x80002001)) = true ∧ isNext (readEach s (rightOf 4 0x80002001)) = true ∧
    isNext (readEach s (leftOf 8 0x80002001)) = true ∧ isNext (readEach s (rightOf 8 0x80002001)) = true ∧
    isNext (readEach s (leftOf 4 0x00002001)) = false ∧
    isNext (writeEach s (leftCells 4 0x80002001 0x01020304)) = true ∧
    isNext (writeEach s (rightCells 8 0x80002001 0x01020304)) = true ∧
    faultOf (writeEach s (leftCells 4 0xB0000001 0x01020304)) = some 5 := by decide

theorem witness_Cop0MovesAndWhitelist :
    6#5 ∈ [6#5, 9#5, 11#5, 13#5] ∧ 13#5 ∈ [6#5, 9#5, 11#5, 13#5] ∧ 0#5 ∉ [6#5, 9#5, 11#5, 13#5] ∧
    31#5 ∉ [6#5, 9#5, 11#5, 13#5] := by decide

theorem witness_UnsupportedInstructionsFault :
    faultOf (exec (.syscall 0x12345) State.reset) = some 8 ∧ faultOf (exec (.cop1 0) State.reset) = some 8 := by decide

end Sys2Proof.Tests
end

section
/-! PROOFS. The state and reset (10_state.md): what the fields of a state are after a step, completed or faulted, then the
statements of that family. -/

namespace Sys2Proof.Machine

/-! ### A completed step in one line: fetch, instruction, end -/

/-- A completed step whose instruction is known. -/
theorem of_step_next_of_fetchDecode {s s' t : State} {w : Word} {i : Instr}
    (h : fetchDecode (beginStep s) s.bd = .next (w, i, s')) (hs : step s = .next t) :
    (s.bd = none ∨ i.kind ≠ .control) ∧ ∃ u, exec i s' = .next u ∧ t = finishStep s.bd u := by
  obtain ⟨w', i', s'', u, _, h', hslot, hu, rfl⟩ := of_step_next hs
  cases h.symm.trans h'
  exact ⟨hslot, u, hu, rfl⟩

/-- A completed step: what stages 1 and 2 made, then bytes at the fetch, then all an instruction can do, then the end. -/
theorem ran_of_step {s t : State} (h : step s = .next t) :
    ∃ i s' u, Kept (beginStep s) s' ∧ Ran i s' u ∧ t = finishStep s.bd u := by
  obtain ⟨_, i, s', u, _, hf, _, hu, ht⟩ := of_step_next h
  exact ⟨i, s', u, kept_of_fetchDecode hf, exec_ran hu, ht⟩

/-- A property that every part of a step keeps holds of the state a step leaves, completed or faulted. -/
theorem step_induct {P : State → Prop} {s : State} (hbegin : P (beginStep s))
    (hkept : ∀ t u, P t → Kept t u → P u) (hran : ∀ i t u, P t → Ran i t u → P u)
    (hfinish : ∀ slot t, P t → P (finishStep slot t)) :
    (∀ t, step s = .next t → P t) ∧ (∀ f, step s = .fault f → P f.context.after) := by
  constructor
  · intro t h
    obtain ⟨i, s', u, hk, hr, rfl⟩ := ran_of_step h
    exact hfinish _ _ (hran i _ _ (hkept _ _ hbegin hk) hr)
  · intro f h
    obtain ⟨_, _, hk⟩ := faultKept_of_step h
    exact hkept _ _ hbegin hk

/-! ### Good states -/

theorem configRefusal_congr {s t : State} (hmap : t.map = s.map) (htlb : t.tlb = s.tlb) :
    configRefusal t = configRefusal s := by
  simp only [configRefusal, hmap, htlb]

theorem State.Good.beginStep {s : State} (h : s.Good) : (beginStep s).Good :=
  ⟨h.memCanonical, h.devCanonical, h.zeroCell, h.configured⟩

theorem State.Good.of_kept {s t : State} (h : s.Good) (hk : Kept s t) : t.Good where
  memCanonical := hk.mem h.memCanonical
  devCanonical := hk.dev h.devCanonical
  zeroCell := by rw [hk.gpr]; exact h.zeroCell
  configured := (configRefusal_congr hk.map hk.tlb).trans h.configured

theorem State.Good.of_ran {i : Instr} {s t : State} (h : s.Good) (hr : Ran i s t) : t.Good where
  memCanonical := hr.mem h.memCanonical
  devCanonical := hr.dev h.devCanonical
  zeroCell := hr.zero h.zeroCell
  configured := (configRefusal_congr hr.map hr.tlb).trans h.configured

theorem State.Good.finishStep {s : State} (h : s.Good) (slot : Option Dword) : (finishStep slot s).Good :=
  ⟨h.memCanonical, h.devCanonical, h.zeroCell, h.configured⟩

/-! ### Constants -/

theorem SameConstants.beginStep (s : State) : SameConstants s (beginStep s) where
  map := rfl
  tlb := rfl
  fcr0 := rfl
  fcr31 := rfl
  inert i hrandom hwritable := by
    have hcount : i ≠ 9#5 := fun h => hwritable (by rw [h]; decide)
    rw [cop0_beginStep, if_neg hcount, if_neg hrandom]

theorem SameConstants.of_kept {s t u : State} (h : SameConstants s t) (hk : Kept t u) : SameConstants s u where
  map := hk.map.trans h.map
  tlb := hk.tlb.trans h.tlb
  fcr0 := hk.fcr0.trans h.fcr0
  fcr31 := hk.fcr31.trans h.fcr31
  inert i hrandom hwritable := (hk.cop0 i).trans (h.inert i hrandom hwritable)

theorem SameConstants.of_ran {i : Instr} {s t u : State} (h : SameConstants s t) (hr : Ran i t u) :
    SameConstants s u where
  map := hr.map.trans h.map
  tlb := hr.tlb.trans h.tlb
  fcr0 := hr.fcr0.trans h.fcr0
  fcr31 := hr.fcr31.trans h.fcr31
  inert j hrandom hwritable := (hr.inert j hwritable).trans (h.inert j hrandom hwritable)

theorem SameConstants.finishStep {s t : State} (h : SameConstants s t) (slot : Option Dword) :
    SameConstants s (finishStep slot t) :=
  ⟨h.map, h.tlb, h.fcr0, h.fcr31, h.inert⟩

/-! ### Storage as the host reads it -/

theorem peek_rom {s : State} {pa : Word} {m : Mapping} {image : List Byte} (h : lookup s.map pa = some m)
    (hk : m.kind = .rom image) : s.peek pa = some (romByte image (pa.toNat - m.lo)) := by
  simp only [State.peek, h, hk]

theorem peek_ram {s : State} {pa : Word} {m : Mapping} (h : lookup s.map pa = some m)
    (hk : m.kind = .ram ∨ m.kind = .bootRam) : s.peek pa = some (Memory.read s.mem pa.toNat) := by
  rcases hk with hk | hk <;> simp only [State.peek, h, hk]

/-! ### The reset state -/

section resetWith
variable (map : List Mapping) (entryPc : Dword)

@[simp] theorem reg_resetWith (r : Reg) : (State.resetWith map entryPc).reg r = 0#64 := by
  simp [State.reg, State.resetWith]

@[simp] theorem cop0_resetWith (i : Reg) : (State.resetWith map entryPc).cop0 i = 0#64 := by
  simp [State.cop0, State.resetWith]

@[simp] theorem cycles_resetWith : (State.resetWith map entryPc).cycles = 0#64 := rfl

@[simp] theorem tlb_resetWith (i : Fin 32) : (State.resetWith map entryPc).tlb[i] = TlbEntry.zero := by
  simp [State.resetWith]

end resetWith

/-! ### Register 0 as the destination (10_state.md R22) -/

/-- A write to register 0 is `NOP`. -/
theorem writeReg_zero (s : State) (v : Dword) : writeReg s 0#5 v = exec .nop s := by
  rw [writeReg, State.setReg_zero]; rfl

theorem load_zero (s : State) (ea : Dword) (n : Nat) (extend : Dword → Dword) :
    load s 0#5 ea n extend = andThen (memRead s ea n .read) fun r => exec .nop r.2 := by
  simp only [load, writeReg_zero]

theorem loadLeft_zero (s : State) (va : Word) (size : Nat) (extend : Dword → Dword) :
    loadLeft s 0#5 va size extend = andThen (readEach s (leftAddrs va size)) fun r => exec .nop r.2 := by
  simp only [loadLeft, writeReg_zero]

theorem loadRight_zero (s : State) (va : Word) (size : Nat) (extend : Dword → Dword) :
    loadRight s 0#5 va size extend = andThen (readEach s (rightAddrs va size)) fun r => exec .nop r.2 := by
  simp only [loadRight, writeReg_zero]

/-- An outcome that goes on from accesses as `NOP` does: `NOP` on the state they left, or their fault. -/
theorem nop_after_accesses {α : Type} {o : Outcome} {accesses : Bus α}
    (h : o = andThen accesses fun r => exec .nop r.2) :
    (∀ v s', accesses = .next (v, s') → o = exec .nop s') ∧ (∀ f, accesses = .fault f → o = .fault f) := by
  subst h
  constructor
  · rintro v s' rfl; rfl
  · rintro f rfl; rfl

end Sys2Proof.Machine

namespace Sys2Proof.Claims

open Sys2Proof.Machine

/-! ### Random and Count after a step -/

theorem drawnRandom_lt (s : State) : (drawnRandom s).toNat < 64 := randomValue_lt s

/-- Random and the draw counter in a state that has them as stage 2 made them. -/
theorem random_of_beginStep {s t : State} (hc : t.cop0 1#5 = (beginStep s).cop0 1#5)
    (hd : t.draws = (beginStep s).draws) :
    t.cop0 1#5 = drawnRandom s ∧ (t.cop0 1#5).toNat < 64 ∧ t.draws = s.draws + 1 := by
  have hr : t.cop0 1#5 = drawnRandom s := by
    rw [hc, begin_cop0, if_neg (by decide), if_pos rfl]
  exact ⟨hr, hr ▸ drawnRandom_lt s, hd⟩

theorem count_beginStep (s : State) : (beginStep s).cop0 9#5 = steppedCount s := by
  rw [begin_cop0, if_pos rfl]

/-- A sign-extended low word is the wrap of its own signed value. -/
theorem sext64_reg32 (s : State) (r : Reg) : sext64 (s.reg32 r) = sextWrap (s32 s r) :=
  sextWrap_of (BitVec.toInt_bmod_cancel _).symm

/-- A move to Count that completes leaves the moved value in it. -/
theorem count_of_moveToCop0 {s t : State} {v : Dword} (h : moveToCop0 s 9#5 v = .next t) : t.cop0 9#5 = v := by
  rw [moveToCop0, if_pos (by decide)] at h
  cases h
  rw [State.cop0_advance, State.cop0_setCop0, if_pos rfl]

/-! ### Which control transfers are taken -/

theorem regsEqual_iff (s : State) (rs rt : Reg) : regsEqual s rs rt = true ↔ s.reg rs = s.reg rt := beq_iff_eq

theorem regNegative_iff (s : State) (r : Reg) : regNegative s r = true ↔ s64 s r < 0 := BitVec.slt_iff_toInt_lt

theorem regNotPositive_iff (s : State) (r : Reg) : regNotPositive s r = true ↔ s64 s r ≤ 0 := BitVec.sle_iff_toInt_le

/-- Whether a transfer is taken depends on the general registers alone. -/
theorem taken_congr {s t : State} (h : ∀ r : Reg, t.reg r = s.reg r) (i : Instr) : Taken t i ↔ Taken s i := by
  unfold Taken s64
  simp only [h]

/-- Only control transfers are taken. -/
theorem kind_of_taken {s : State} {i : Instr} (h : Taken s i) : i.kind = .control := by
  cases i <;> simp_all [Taken, Instr.kind]

/-- Every instruction of kind control transfers where `Taken` says so. -/
theorem exec_transfers {i : Instr} (hk : i.kind = .control) (s : State) :
    ∃ target link, Transfers s (Taken s i) target link (exec i s) := by
  cases i with
  | j | jr | b | bRegimm => exact ⟨_, _, transfers s true _ _ (iff_of_true trivial rfl)⟩
  | jal | jalr => exact ⟨_, _, transfersLink s true _ _ _ (iff_of_true trivial rfl)⟩
  | beq rs rt | beql rs rt => exact ⟨_, _, transfers s _ _ _ (regsEqual_iff s rs rt).symm⟩
  | bne rs rt | bnel rs rt => exact ⟨_, _, transfers s _ _ _ (by simp [Taken, ← regsEqual_iff])⟩
  | blez rs | blezl rs => exact ⟨_, _, transfers s _ _ _ (regNotPositive_iff s rs).symm⟩
  | bgtz rs | bgtzl rs => exact ⟨_, _, transfers s _ _ _ (by simp [Taken, ← not_le, ← regNotPositive_iff])⟩
  | bltz rs | bltzl rs => exact ⟨_, _, transfers s _ _ _ (regNegative_iff s rs).symm⟩
  | bgez rs | bgezl rs => exact ⟨_, _, transfers s _ _ _ (by simp [Taken, ← not_lt, ← regNegative_iff])⟩
  | bltzal rs | bltzall rs => exact ⟨_, _, transfersLink s _ _ _ _ (regNegative_iff s rs).symm⟩
  | bgezal rs | bgezall rs => exact ⟨_, _, transfersLink s _ _ _ _ (by simp [Taken, ← not_lt, ← regNegative_iff])⟩
  | _ => cases hk

/-! ### Register 0 as the destination -/

/-- Trapping arithmetic with destination 0: `NOP`, or the overflow. -/
theorem writeUnlessOverflow_zero {c : Bool} {fits : Prop} (h : c = true ↔ ¬ fits) (s : State) (v : Dword) :
    (fits → writeUnlessOverflow s c 0#5 v = exec .nop s) ∧
      (¬ fits → writeUnlessOverflow s c 0#5 v = .fault (.integerOverflow s.context)) := by
  constructor
  · intro hf
    rw [writeUnlessOverflow, if_neg (fun hc => h.mp hc hf), writeReg_zero]
  · intro hf
    rw [writeUnlessOverflow, if_pos (h.mpr hf)]; rfl

theorem leftAddrs_eq (va : Word) (n : Nat) : leftAddrs va n = leftOf n va := addrsFrom_eq ..

theorem rightAddrs_eq (va : Word) (n : Nat) : rightAddrs va n = rightOf n va := addrsFrom_eq ..

/-! ### The statements -/

/-- Settles O25: each part of a step keeps a good state good. -/
theorem stepKeepsGoodStates : Obligations.StepKeepsGoodStates := fun _ hs =>
  step_induct hs.beginStep (fun _ _ => State.Good.of_kept) (fun _ _ _ => State.Good.of_ran)
    (fun slot _ h => h.finishStep slot)

/-- Settles O9: no instruction writes Random or the draw counter, which are as stage 2 made them. -/
theorem randomAfterEveryStep : Obligations.RandomAfterEveryStep := by
  intro s
  obtain ⟨hnext, hfault⟩ := step_induct (s := s)
    (P := fun t => t.cop0 1#5 = (beginStep s).cop0 1#5 ∧ t.draws = (beginStep s).draws) ⟨rfl, rfl⟩
    (fun _ _ ⟨hc, hd⟩ hk => ⟨(hk.cop0 _).trans hc, hk.draws.trans hd⟩)
    (fun _ _ _ ⟨hc, hd⟩ hr => ⟨(hr.inert _ (by decide)).trans hc, hr.draws.trans hd⟩)
    (fun _ _ h => h)
  exact ⟨fun t h => have ⟨hc, hd⟩ := hnext t h; random_of_beginStep hc hd,
    fun f h => have ⟨hc, hd⟩ := hfault f h; random_of_beginStep hc hd⟩

/-- Settles O10: stage 2 steps Count, and only the two moves to it write it afterwards. -/
theorem countStepsOnOddCycles : Obligations.CountStepsOnOddCycles := by
  refine ⟨fun s s' w i hf => ?_, fun s f h => ?_, fun map entryPc => ?_⟩
  · have hk : Kept (beginStep s) s' := kept_of_fetchDecode hf
    have hc : s'.cop0 9#5 = steppedCount s := (hk.cop0 _).trans (count_beginStep s)
    have hreg : ∀ r, s'.reg r = s.reg r := hk.reg
    refine ⟨hc, fun t hs => ?_⟩
    obtain ⟨_, u, hu, rfl⟩ := of_step_next_of_fetchDecode hf hs
    rw [State.cop0_finishStep]
    refine ⟨fun hn => ((exec_ran hu).count hn).trans hc, ?_, ?_⟩
    · rintro rt rfl
      rw [count_of_moveToCop0 hu, sext64_reg32, s32, hreg, s32]
    · rintro rt rfl
      rw [count_of_moveToCop0 hu, hreg]
  · obtain ⟨_, _, hk⟩ := faultKept_of_step h
    exact (hk.cop0 _).trans (count_beginStep s)
  · simp [steppedCount]

/-- Settles O14: a control transfer stages a target exactly where it is taken, and no other instruction stages one. -/
theorem pendingTargetIsOfTakenTransfer : Obligations.PendingTargetIsOfTakenTransfer := by
  intro s s' t w i hf hs
  have hk : Kept (beginStep s) s' := kept_of_fetchDecode hf
  have hbd : s'.bd = none := hk.bd
  have hpc : s'.pc = s.pc := hk.pc
  have hreg : ∀ r, s'.reg r = s.reg r := hk.reg
  obtain ⟨hslot, u, hu, rfl⟩ := of_step_next_of_fetchDecode hf hs
  rw [State.finishStep_bd, State.finishStep_pc, ← taken_congr hreg i]
  by_cases hc : i.kind = .control
  · have hnone : s.bd = none := hslot.resolve_right (not_not_intro hc)
    obtain ⟨target, link, v, hv, htaken, hnot, -⟩ := exec_transfers hc s'
    cases hv.symm.trans hu
    rw [hnone, Option.getD_none, ← hpc]
    refine ⟨⟨fun ⟨x, hx⟩ => ?_, fun h => ⟨target, (htaken h).1⟩⟩,
      fun _ => ⟨rfl, fun h => (htaken h).2, fun h => (hnot h).2⟩⟩
    by_contra hn
    rw [(hnot hn).1, hbd] at hx
    cases hx
  · have hn : i.kind = .normal := by
      have hsup := (exec_ran hu).supported
      cases hkind : i.kind with
      | normal => rfl
      | control => exact absurd hkind hc
      | unsupported => exact absurd hkind hsup
    have hu' : u.bd = none := ((exec_ran hu).normal hn).2.trans hbd
    exact ⟨iff_of_false (by simp [hu']) fun h => hc (kind_of_taken h), fun h => absurd h hc⟩

/-- Settles O22: a write to register 0 is `NOP`, whatever came before it. -/
theorem registerZeroDiscardsWrites : Obligations.RegisterZeroDiscardsWrites := by
  refine ⟨fun s rs rt imm sa i hi => ?_, fun s rs rt imm i fits hi => ?_, fun s base offset n i hi => ?_,
    fun s base offset covered i hi => ?_, fun s rs => ?_, fun i s t hz h => (exec_ran h).zero hz⟩
  · fin_cases hi <;> exact writeReg_zero s _
  · simp only [List.mem_cons, Prod.mk.injEq, List.not_mem_nil, or_false] at hi
    rcases hi with ⟨rfl, rfl⟩ | ⟨rfl, rfl⟩ | ⟨rfl, rfl⟩ | ⟨rfl, rfl⟩ | ⟨rfl, rfl⟩ | ⟨rfl, rfl⟩
    · exact writeUnlessOverflow_zero ((addOverflows_word _ _).trans (by rw [sext_imm32, s32_eq])) s _
    · exact writeUnlessOverflow_zero ((addOverflows_dword _ _).trans (by rw [sext_imm64, s64])) s _
    · exact writeUnlessOverflow_zero (addOverflows_word _ _) s _
    · exact writeUnlessOverflow_zero (subOverflows_word _ _) s _
    · exact writeUnlessOverflow_zero (addOverflows_dword _ _) s _
    · exact writeUnlessOverflow_zero (subOverflows_dword _ _) s _
  · simp only [List.mem_cons, Prod.mk.injEq, List.not_mem_nil, or_false] at hi
    rcases hi with ⟨rfl, rfl⟩ | ⟨rfl, rfl⟩ | ⟨rfl, rfl⟩ | ⟨rfl, rfl⟩ | ⟨rfl, rfl⟩ | ⟨rfl, rfl⟩ | ⟨rfl, rfl⟩
    · exact nop_after_accesses ((exec_lb ..).trans (load_zero ..))
    · exact nop_after_accesses ((exec_lbu ..).trans (load_zero ..))
    · exact nop_after_accesses ((exec_lh ..).trans (load_zero ..))
    · exact nop_after_accesses ((exec_lhu ..).trans (load_zero ..))
    · exact nop_after_accesses ((exec_lw ..).trans (load_zero ..))
    · exact nop_after_accesses ((exec_lwu ..).trans (load_zero ..))
    · exact nop_after_accesses ((exec_ld ..).trans (load_zero ..))
  · simp only [List.mem_cons, Prod.mk.injEq, List.not_mem_nil, or_false, ← leftAddrs_eq, ← rightAddrs_eq] at hi
    rcases hi with ⟨rfl, rfl⟩ | ⟨rfl, rfl⟩ | ⟨rfl, rfl⟩ | ⟨rfl, rfl⟩
    · exact nop_after_accesses ((exec_lwl ..).trans (loadLeft_zero ..))
    · exact nop_after_accesses ((exec_lwr ..).trans (loadRight_zero ..))
    · exact nop_after_accesses ((exec_ldl ..).trans (loadLeft_zero ..))
    · exact nop_after_accesses ((exec_ldr ..).trans (loadRight_zero ..))
  · show takeBranch (s.linkTo 0#5) (s.reg rs) = takeBranch s (s.reg rs)
    rw [State.linkTo, State.setReg_zero]

/-- Settles O26: each part of a step keeps the constants, and a ROM byte is a matter of MAP. -/
theorem stepKeepsConstants : Obligations.StepKeepsConstants := by
  intro s
  obtain ⟨hnext, hfault⟩ := step_induct (P := SameConstants s) (SameConstants.beginStep s)
    (fun _ _ => SameConstants.of_kept) (fun _ _ _ => SameConstants.of_ran) (fun slot _ h => h.finishStep slot)
  refine ⟨fun t ht => ⟨hnext t ht, fun pa m image hm hk => ?_⟩, hfault⟩
  have hm' : lookup t.map pa = some m := by rw [(hnext t ht).map, hm]
  rw [peek_rom hm hk, peek_rom hm' hk]

/-- Settles O23: the reset state, field by field; a RAM byte reads 0 because no cell is listed. -/
theorem resetLeavesZeros : Obligations.ResetLeavesZeros := by
  intro map entryPc
  refine ⟨reg_resetWith map entryPc, rfl, rfl, rfl, cop0_resetWith map entryPc, rfl, rfl, rfl, rfl,
    tlb_resetWith map entryPc, fun pa m hm => ⟨fun hk => peek_ram hm hk, fun image hk => peek_rom hm hk⟩⟩

/-- Settles O24: empty storage is canonical, and the zero entries' page mask is legal. -/
theorem resetIsGood : Obligations.ResetIsGood := by
  have good : ∀ map entryPc, mapWf map = true → (State.resetWith map entryPc).Good := fun map entryPc hwf =>
    { memCanonical := rfl
      devCanonical := rfl
      zeroCell := by simp [State.resetWith]
      configured := config_iff.mpr ⟨hwf, fun i => by rw [tlb_resetWith]; decide⟩ }
  exact ⟨good _ _ (by decide), good⟩

end Sys2Proof.Claims
end

section
/-! PROOFS. The bus (20_memory.md): translation, where an access lands, what each kind of mapping then does, and copies; then
the statements of that family. -/

namespace Sys2Proof.Machine

/-! ### Translation: the direct segments (20_memory.md R70, R71) -/

theorem translate_kseg0 (s : State) {va : Word} (hlo : 0x80000000 ≤ va.toNat) (hhi : va.toNat < 0xA0000000) :
    translate s va = some (va - Config.kseg0Base) := by
  have h0 : ¬ va < Config.kseg0Base := by simpa [BitVec.lt_def, Config.kseg0Base] using hlo
  have h1 : va < Config.kseg1Base := by simpa [BitVec.lt_def, Config.kseg1Base] using hhi
  rw [translate, if_neg h0, if_pos h1]

theorem translate_kseg1 (s : State) {va : Word} (hlo : 0xA0000000 ≤ va.toNat) (hhi : va.toNat < 0xC0000000) :
    translate s va = some (va - Config.kseg1Base) := by
  have h0 : ¬ va < Config.kseg0Base := by simp [BitVec.lt_def, Config.kseg0Base]; omega
  have h1 : ¬ va < Config.kseg1Base := by simpa [BitVec.lt_def, Config.kseg1Base] using hlo
  have h2 : va < Config.kssegBase := by simpa [BitVec.lt_def, Config.kssegBase] using hhi
  rw [translate, if_neg h0, if_neg h1, if_pos h2]

theorem sub_kseg0Base_toNat {va : Word} (hlo : 0x80000000 ≤ va.toNat) :
    (va - Config.kseg0Base).toNat = va.toNat - 0x80000000 :=
  BitVec.toNat_sub_of_le (BitVec.le_def.mpr hlo)

theorem sub_kseg1Base_toNat {va : Word} (hlo : 0xA0000000 ≤ va.toNat) :
    (va - Config.kseg1Base).toNat = va.toNat - 0xA0000000 :=
  BitVec.toNat_sub_of_le (BitVec.le_def.mpr hlo)

/-- The address in kseg0 of a physical address below 512 MiB. -/
theorem translate_kseg0_add (s : State) {x : Word} (h : x.toNat < 2 ^ 29) :
    translate s (0x80000000#32 + x) = some x := by
  have hx : (0x80000000#32 + x).toNat = 0x80000000 + x.toNat := by simp; omega
  rw [translate_kseg0 s (by omega) (by omega), Config.kseg0Base, add_sub_cancel_left]

/-- The address in kseg1 of a physical address below 512 MiB. -/
theorem translate_kseg1_add (s : State) {x : Word} (h : x.toNat < 2 ^ 29) :
    translate s (0xA0000000#32 + x) = some x := by
  have hx : (0xA0000000#32 + x).toNat = 0xA0000000 + x.toNat := by simp; omega
  rw [translate_kseg1 s (by omega) (by omega), Config.kseg1Base, add_sub_cancel_left]

/-! ### Masks of low bits -/

section lowMask
variable {w k : Nat} {m : BitVec w} (hm : m.toNat + 1 = 2 ^ k)
include hm

theorem toNat_and_lowMask (x : BitVec w) : (x &&& m).toNat = x.toNat % 2 ^ k := by
  rw [BitVec.toNat_and, Nat.eq_sub_of_add_eq hm, Nat.and_two_pow_sub_one_eq_mod]

theorem toNat_and_not_lowMask (x : BitVec w) : (x &&& ~~~m).toNat = x.toNat / 2 ^ k * 2 ^ k := by
  have hbit : ∀ i, m.getLsbD i = decide (i < k) := fun i => by
    rw [← BitVec.testBit_toNat, Nat.eq_sub_of_add_eq hm, Nat.testBit_two_pow_sub_one]
  apply Nat.eq_of_testBit_eq
  intro i
  rw [BitVec.testBit_toNat, BitVec.getLsbD_and, BitVec.getLsbD_not, hbit, Nat.testBit_mul_two_pow,
    Nat.testBit_div_two_pow, ← BitVec.testBit_toNat]
  by_cases hi : i < k
  · simp [hi]
  · rw [show i - k + k = i by omega]
    by_cases hw : i < w
    · simp [hi, hw, Nat.not_lt.mp hi]
    · rw [Nat.testBit_lt_two_pow (x.isLt.trans_le (Nat.pow_le_pow_right (by omega) (Nat.not_lt.mp hw)))]
      simp

theorem and_not_lowMask_eq_iff (x y : BitVec w) :
    x &&& ~~~m = y &&& ~~~m ↔ x.toNat / 2 ^ k = y.toNat / 2 ^ k := by
  rw [← BitVec.toNat_inj, toNat_and_not_lowMask hm, toNat_and_not_lowMask hm,
    Nat.mul_left_inj (Nat.two_pow_pos k).ne']

/-- Upper bits of one word, lower bits of another. -/
theorem toNat_merge_lowMask (x y : BitVec w) :
    ((x &&& ~~~m) ||| (y &&& m)).toNat = x.toNat / 2 ^ k * 2 ^ k + y.toNat % 2 ^ k := by
  rw [BitVec.toNat_or, toNat_and_not_lowMask hm, toNat_and_lowMask hm, Nat.mul_comm,
    Nat.two_pow_add_eq_or_of_lt (Nat.mod_lt _ (Nat.two_pow_pos k))]

end lowMask

/-- A single bit of a word, as a number. -/
theorem and_twoPow_ne_zero_iff {w k : Nat} {m : BitVec w} (hm : m.toNat = 2 ^ k) (x : BitVec w) :
    x &&& m ≠ 0#w ↔ x.toNat / 2 ^ k % 2 = 1 := by
  rw [Ne, ← BitVec.toNat_inj, BitVec.toNat_and, hm, Nat.and_two_pow, Nat.testBit_eq_decide_div_mod_eq]
  simp

/-! ### Translation: the table (20_memory.md R73, R74) -/

/-- A legal page mask is some number of ones. -/
theorem pageMask_toNat {mask : BitVec 12} (h : mask ∈ Config.pageMasks) : ∃ k ≤ 12, mask.toNat + 1 = 2 ^ k := by
  simp only [Config.pageMasks, List.mem_cons, List.not_mem_nil, or_false] at h
  rcases h with rfl | rfl | rfl | rfl | rfl | rfl | rfl
  · exact ⟨0, by omega, rfl⟩
  · exact ⟨2, by omega, rfl⟩
  · exact ⟨4, by omega, rfl⟩
  · exact ⟨6, by omega, rfl⟩
  · exact ⟨8, by omega, rfl⟩
  · exact ⟨10, by omega, rfl⟩
  · exact ⟨12, by omega, rfl⟩

/-- The bits an entry's mask covers in the number of a page pair. -/
def TlbEntry.pairMask (e : TlbEntry) : BitVec 19 := e.mask.setWidth 19

/-- The page size of an entry as a word: also the bit that tells its two pages apart. -/
def TlbEntry.pageWord (e : TlbEntry) : Word := (e.mask.setWidth 32 + 1#32) <<< 12

/-- The address in a page frame at the page offset of `va`. -/
def TlbEntry.frameAddr (e : TlbEntry) (pfn : BitVec 20) (va : Word) : Word :=
  ((pfn.setWidth 32 <<< 12) &&& ~~~(e.pageWord - 1#32)) ||| (va &&& (e.pageWord - 1#32))

/-- `TlbEntry.hit` in these names. -/
theorem TlbEntry.hit_eq (e : TlbEntry) (va : Word) :
    e.hit va =
      if va.extractLsb' 13 19 &&& ~~~e.pairMask = e.vpn2 &&& ~~~e.pairMask then
        if va &&& e.pageWord ≠ 0#32 then if e.v1 then some (e.frameAddr e.pfn1 va) else none
        else if e.v0 then some (e.frameAddr e.pfn0 va) else none
      else none := by
  unfold TlbEntry.hit TlbEntry.frameAddr TlbEntry.pairMask TlbEntry.pageWord
  dsimp only
  split
  · split <;> rfl
  · rfl

theorem TlbEntry.hit_of_invalid {e : TlbEntry} (h0 : e.v0 = false) (h1 : e.v1 = false) (va : Word) : e.hit va = none := by
  rw [TlbEntry.hit_eq, h0, h1]
  simp

theorem tlbLookup_eq_findSome? (s : State) (va : Word) :
    tlbLookup s va = Fin.findSome? fun i : Fin 32 => s.tlb[i].hit va := by
  have htlb : s.tlb.toList = (List.finRange 32).map fun i : Fin 32 => s.tlb[i] := by
    apply List.ext_getElem <;> simp
  rw [tlbLookup, htlb, List.findSome?_map, Fin.findSome?_eq_findSome?_finRange]
  rfl

/-! ### Faults before a mapping is reached (20_memory.md R100, R101) -/

theorem memRead_of_route_fault {s : State} {a : Dword} {n : Nat} {k : AccessKind} {f : Fault}
    (h : route s a n k = .fault f) : memRead s a n k = .fault f := by
  rw [memRead, h, andThen_fault]

theorem memWrite_of_route_fault {s : State} {a : Dword} {n : Nat} {f : Fault} (v : Dword)
    (h : route s a n .write = .fault f) : memWrite s a n v = .fault f := by
  rw [memWrite, h, andThen_fault]

section routeFaults
variable {s : State} {a : Dword} {n : Nat} (k : AccessKind)

theorem route_misaligned (h : (low32 a).toNat % n ≠ 0) :
    route s a n k = .fault (.misaligned (low32 a) n k s.context) := by
  rw [route_eq, if_pos h]; rfl

theorem route_miss (h : (low32 a).toNat % n = 0) (ht : translate s (low32 a) = none) :
    route s a n k = .fault (.tlbMiss (low32 a) n k s.context) := by
  rw [route_eq, if_neg (not_not_intro h), ht]; rfl

theorem route_unmapped (h : (low32 a).toNat % n = 0) {pa : Word} (ht : translate s (low32 a) = some pa)
    (hl : lookup s.map pa = none) : route s a n k = .fault (.unmapped (low32 a) pa n k s.context) := by
  rw [route_eq, if_neg (not_not_intro h), ht]
  simp only [hl]
  rfl

end routeFaults

/-- The upper half of an address is never looked at (20_memory.md R61). -/
theorem route_congr_low32 (s : State) {a a' : Dword} (h : low32 a = low32 a') (n : Nat) (k : AccessKind) :
    route s a n k = route s a' n k := by
  rw [route_eq, route_eq, h]

/-! ### What each kind of mapping does -/

section handlers
variable {s : State} {m : Mapping} (va pa : Word) (n : Nat) (k : AccessKind) (v : Dword)

theorem completeRead_faultTrap (h : m.kind = .faultTrap) :
    completeRead s m va pa n k = .fault (.deviceFault va pa n k s.context) := by
  simp only [completeRead, handleRead, h]; rfl

theorem completeWrite_faultTrap (h : m.kind = .faultTrap) :
    completeWrite s m va pa n v = .fault (.deviceFault va pa n .write s.context) := by
  simp only [completeWrite, writeHandled, handleWrite, h]; rfl

theorem completeWrite_rom {image : List Byte} (h : m.kind = .rom image) :
    completeWrite s m va pa n v = .fault (.readOnlyWrite va pa n s.context) := by
  simp only [completeWrite, writeHandled, handleWrite, h]; rfl

theorem completeWrite_openBus (h : m.kind = .openBus) : completeWrite s m va pa n v = .next s := by
  simp only [completeWrite, writeHandled, handleWrite, startedCopy, h]; rfl

end handlers

/-! ### Steps that fault at the fetch, and steps that are refused -/

theorem step_of_fetch_fault {s : State} {f : Fault} (h0 : configRefusal s = none)
    (h : fetch (beginStep s) = .fault f) : step s = .fault (f.inStep none s.bd) := by
  simp only [step, h0, fetchDecode, h]

/-- With a well-formed MAP only a page mask is left to refuse. -/
theorem configRefusal_of_mapWf {s : State} (h : mapWf s.map = true) (hne : configRefusal s ≠ none) :
    configRefusal s = some .illegalPageMask := by
  unfold configRefusal at hne ⊢
  rw [h] at hne ⊢
  cases hmasks : s.tlb.toList.all fun e => decide (e.mask ∈ Config.pageMasks) with
  | true => rw [hmasks] at hne; exact absurd rfl hne
  | false => rfl

theorem step_of_configRefusal {s : State} {r : Refusal} (h : configRefusal s = some r) : step s = .refused r := by
  simp only [step, h]

theorem fetchDecode_not_refused (s : State) (slot : Option Dword) (r : Refusal) : fetchDecode s slot ≠ .refused r := by
  have hfetch : fetch s ≠ .refused r :=
    andThen_not_refused (memRead_not_refused s _ 4 .fetch r) fun _ => by simp
  unfold fetchDecode
  split
  · simp
  · rename_i q hq
    exact fun h => hfetch (hq.trans (by cases h; rfl))
  · split <;> simp

theorem completeStep_not_refused {o : Outcome} {r : Refusal} (ho : o ≠ .refused r) (slot : Option Dword) (w : Word)
    (i : Instr) (s : State) : completeStep slot w i s o ≠ .refused r := by
  unfold completeStep
  split
  · simp
  · cases o with
    | next t => simp
    | fault f => simp
    | refused q => simpa using ho

/-- A step of a legal configuration completes or faults (40_step_engine.md R152). -/
theorem step_not_refused {s : State} (h : configRefusal s = none) (r : Refusal) : step s ≠ .refused r := by
  have hf := fetchDecode_not_refused (beginStep s) s.bd r
  simp only [step, h]
  cases hd : fetchDecode (beginStep s) s.bd with
  | next p => exact completeStep_not_refused (exec_not_refused _ _ r) _ _ _ _
  | fault f => simp
  | refused q => rw [hd] at hf; simpa using hf

/-! ### Where a step leaves `pc`, and what it stages -/

theorem Ran.pc {i : Instr} {s t : State} (h : Ran i s t) : t.pc = s.pc + 4#64 ∨ t.pc = s.pc + 8#64 := by
  cases hk : i.kind with
  | normal => exact .inl (h.normal hk).1
  | control => exact (h.control hk).imp And.left And.left
  | unsupported => exact absurd hk h.supported

theorem Ran.pc_aligned {i : Instr} {s t : State} (h : Ran i s t) (hs : s.pc.toNat % 4 = 0) : t.pc.toNat % 4 = 0 := by
  rcases h.pc with hpc | hpc
  · rw [hpc, BitVec.toNat_add, BitVec.toNat_ofNat]; omega
  · rw [hpc, BitVec.toNat_add, BitVec.toNat_ofNat]; omega

theorem shiftLeft_two_aligned (x : Dword) : (x <<< 2).toNat % 4 = 0 := by
  rw [BitVec.toNat_shiftLeft, Nat.shiftLeft_eq]; omega

theorem branchTarget_aligned {pc : Dword} (h : pc.toNat % 4 = 0) (offset : BitVec 16) :
    (branchTarget pc offset).toNat % 4 = 0 := by
  have := shiftLeft_two_aligned (sextImm offset)
  rw [branchTarget, BitVec.toNat_add, BitVec.toNat_add, BitVec.toNat_ofNat]
  omega

theorem jumpTarget_aligned (pc : Dword) (target : BitVec 26) : (jumpTarget pc target).toNat % 4 = 0 := by
  have hshift := shiftLeft_two_aligned (target.setWidth 64)
  rw [jumpTarget, BitVec.toNat_or, BitVec.toNat_and, show 4 = 2 ^ 2 from rfl, Nat.or_mod_two_pow, Nat.and_mod_two_pow,
    hshift]
  simp

/-- What a branch that completes stages, where nothing was pending. -/
theorem target_of_branchIf {s t : State} {c : Bool} {target x : Dword} (h : branchIf s c target = .next t)
    (hs : s.bd = none) (ht : t.bd = some x) : x = target := by
  cases c with
  | true => cases h; cases ht; rfl
  | false => cases h; cases hs.symm.trans ht

/-- Every target but that of a register jump is a multiple of 4 (45_branch_jump.md R252, R275). -/
theorem staged_aligned {i : Instr} {s t : State} {x : Dword} (hk : i.kind = .control) (hpc : s.pc.toNat % 4 = 0)
    (hs : s.bd = none) (h : exec i s = .next t) (ht : t.bd = some x) :
    x.toNat % 4 = 0 ∨ (∃ rs, i = .jr rs) ∨ ∃ rd rs, i = .jalr rd rs := by
  have branch (offset : BitVec 16) (hx : x = branchTarget s.pc offset) : x.toNat % 4 = 0 :=
    hx ▸ branchTarget_aligned hpc offset
  have hlink : (s.linkTo Config.link).bd = none := by simpa using hs
  cases i with
  | jr rs => exact .inr (.inl ⟨rs, rfl⟩)
  | jalr rd rs => exact .inr (.inr ⟨rd, rs, rfl⟩)
  | j | jal => cases h; cases ht; exact .inl (jumpTarget_aligned _ _)
  | b | bRegimm => cases h; cases ht; exact .inl (branch _ rfl)
  | beq | bne | blez | bgtz | bltz | bgez | beql | bnel | blezl | bgtzl | bltzl | bgezl =>
    exact .inl (branch _ (target_of_branchIf h hs ht))
  | bltzal | bgezal | bltzall | bgezall => exact .inl (branch _ (target_of_branchIf h hlink ht))
  | _ => cases hk

/-! ### Copies within RAM (20_memory.md R96) -/

/-- The source byte that byte `x` of the destination of a copy from `p` to `q` ends up with: the one it stands at, or, where
the destination lies above the source, the one that the bytes below the destination repeat with their period. -/
def copySource (p q x : Nat) : Nat := if p < q then p + (x - q) % (q - p) else p + (x - q)

theorem copySource_self (p q : Nat) : copySource p q q = p := by
  unfold copySource
  split <;> simp

/-- One byte on, the source is the same, but for the first byte of the destination, which holds what was copied there. -/
theorem copySource_succ {p q x : Nat} (h : q < x) :
    copySource p q x = if copySource (p + 1) (q + 1) x = q then p else copySource (p + 1) (q + 1) x := by
  obtain ⟨i, rfl⟩ := Nat.exists_eq_add_of_lt h
  unfold copySource
  by_cases hpq : p < q
  · obtain ⟨d, hd, rfl⟩ : ∃ d, 0 < d ∧ q = p + d := ⟨q - p, by omega, by omega⟩
    rw [if_pos hpq, if_pos (show p + 1 < p + d + 1 by omega), show p + d - p = d by omega,
      show p + d + 1 - (p + 1) = d by omega,
      show p + d + i + 1 - (p + d) = i + 1 by omega,
      show p + d + i + 1 - (p + d + 1) = i by omega, ← Nat.mod_add_mod]
    have hlt : i % d < d := Nat.mod_lt i hd
    by_cases hlast : i % d + 1 = d
    · rw [if_pos (by omega), hlast, Nat.mod_self, Nat.add_zero]
    · rw [if_neg (by omega), Nat.mod_eq_of_lt (by omega)]
      omega
  · rw [if_neg hpq, if_neg (show ¬ p + 1 < q + 1 by omega), if_neg (by omega)]
    omega

/-- The storage that a copy of `len` bytes from `p` to `q` leaves where it was `f`. -/
def copied (p q len : Nat) (f : Nat → Byte) (x : Nat) : Byte :=
  if q ≤ x ∧ x < q + len then f (copySource p q x) else f x

theorem copied_zero (p q : Nat) (f : Nat → Byte) (x : Nat) : copied p q 0 f x = f x := by
  rw [copied, if_neg (by omega)]

/-- The first byte is copied, then the rest from the next addresses. -/
theorem copied_succ (p q len : Nat) (f : Nat → Byte) (x : Nat) :
    copied p q (len + 1) f x = copied (p + 1) (q + 1) len (fun y => if y = q then f p else f y) x := by
  unfold copied
  dsimp only
  rcases Nat.lt_trichotomy x q with hx | rfl | hx
  · rw [if_neg (by omega), if_neg (by omega), if_neg (by omega)]
  · rw [if_pos (by omega), if_neg (by omega), if_pos rfl, copySource_self]
  · by_cases hin : x < q + (len + 1)
    · rw [if_pos (by omega), if_pos (by omega), copySource_succ hx]
      exact apply_ite f ..
    · rw [if_neg (by omega), if_neg (by omega), if_neg (by omega)]

/-- The address in kseg0 of byte `p` of physical memory. -/
def kseg0Addr (p : Nat) : Word := BitVec.ofNat 32 (0x80000000 + p)

theorem kseg0Addr_succ (p : Nat) : kseg0Addr p + 1#32 = kseg0Addr (p + 1) := by
  rw [kseg0Addr, kseg0Addr, ← BitVec.ofNat_add, Nat.add_assoc]

theorem translate_kseg0Addr (s : State) {p : Nat} (h : p < 2 ^ 29) :
    translate s (kseg0Addr p) = some (BitVec.ofNat 32 p) := by
  have hp : (BitVec.ofNat 32 p).toNat < 2 ^ 29 := by rw [BitVec.toNat_ofNat]; omega
  rw [kseg0Addr, BitVec.ofNat_add]
  exact translate_kseg0_add s hp

end Sys2Proof.Machine

namespace Sys2Proof.Claims

open Sys2Proof.Machine

/-! ### Table entries in numbers (20_memory.md R73, R74) -/

theorem translate_of_translated (s : State) {va : Word} (h : Translated va) : translate s va = tlbLookup s va := by
  unfold Machine.translate
  rcases h with h | h
  · rw [if_pos (by simpa [BitVec.lt_def, Config.kseg0Base] using h)]
  · rw [if_neg (by simp [BitVec.lt_def, Config.kseg0Base]; omega),
      if_neg (by simp [BitVec.lt_def, Config.kseg1Base]; omega), if_neg (by simpa [BitVec.lt_def, Config.kssegBase] using h)]

/-- A half of an entry gives its address where it is valid. -/
theorem valid_half_iff (valid : Bool) (pa : Word) (p : Nat) :
    (valid = true ∧ p = pa.toNat) ↔ ∃ q, (if valid then some pa else none) = some q ∧ q.toNat = p := by
  cases valid
  · simp
  · simp [eq_comm (a := p)]

section legalEntry
variable {e : TlbEntry} {k : Nat} (hm : e.mask.toNat + 1 = 2 ^ k)
include hm

theorem pageSize_eq_twoPow : pageSize e = 2 ^ (k + 12) := by
  rw [pageSize, hm, Nat.pow_add]

theorem pageWord_toNat : e.pageWord.toNat = 2 ^ (k + 12) :=
  (pageSize_toNat e.mask).trans (pageSize_eq_twoPow hm)

theorem pageWord_sub_one_toNat : (e.pageWord - 1#32).toNat + 1 = 2 ^ (k + 12) := by
  have hp := Nat.two_pow_pos (k + 12)
  rw [BitVec.toNat_sub_of_le (BitVec.le_def.mpr (by rw [pageWord_toNat hm]; exact hp)), pageWord_toNat hm]
  simp; omega

/-- The same pair of pages, in bits and in numbers. -/
theorem samePair_iff (va : Word) :
    va.extractLsb' 13 19 &&& ~~~e.pairMask = e.vpn2 &&& ~~~e.pairMask ↔
      va.toNat / (2 * pageSize e) = e.vpn2.toNat * 8192 / (2 * pageSize e) := by
  have hmask : e.pairMask.toNat + 1 = 2 ^ k := by
    rw [TlbEntry.pairMask, BitVec.toNat_setWidth_of_le (by omega), hm]
  have hva : (va.extractLsb' 13 19).toNat = va.toNat / 8192 := by
    rw [BitVec.extractLsb'_toNat, Nat.shiftRight_eq_div_pow]
    have := va.isLt
    omega
  have hsize : 2 * pageSize e = 8192 * 2 ^ k := by rw [pageSize, hm]; ring
  rw [and_not_lowMask_eq_iff hmask, hva, hsize, ← Nat.div_div_eq_div_mul, ← Nat.div_div_eq_div_mul,
    Nat.mul_div_cancel _ (by omega)]

theorem frameAddr_toNat (pfn : BitVec 20) (va : Word) :
    (e.frameAddr pfn va).toNat = pfn.toNat * 4096 / pageSize e * pageSize e + va.toNat % pageSize e := by
  have hpfn : (pfn.setWidth 32 <<< 12).toNat = pfn.toNat * 4096 := by
    have := pfn.isLt
    rw [BitVec.toNat_shiftLeft, BitVec.toNat_setWidth, Nat.shiftLeft_eq]
    omega
  rw [TlbEntry.frameAddr, toNat_merge_lowMask (pageWord_sub_one_toNat hm), hpfn, pageSize_eq_twoPow hm]

/-- An entry maps an address where it hits, to the address it gives. -/
theorem entryMaps_iff_of_mask (va : Word) (p : Nat) :
    EntryMaps e va.toNat p ↔ ∃ pa, e.hit va = some pa ∧ pa.toNat = p := by
  rw [EntryMaps, TlbEntry.hit_eq]
  simp only [samePair_iff hm, and_twoPow_ne_zero_iff (pageWord_toNat hm), ← pageSize_eq_twoPow hm,
    ← frameAddr_toNat hm, valid_half_iff]
  by_cases hpair : va.toNat / (2 * pageSize e) = e.vpn2.toNat * 8192 / (2 * pageSize e)
  · by_cases hhalf : va.toNat / pageSize e % 2 = 1
    · simp only [hpair, hhalf, if_true, true_and]
    · simp only [hpair, hhalf, if_true, if_false, true_and]
  · simp only [hpair, if_false, false_and, reduceCtorEq, exists_const]

end legalEntry

theorem entryMaps_iff {e : TlbEntry} (h : e.mask ∈ Config.pageMasks) (va : Word) (p : Nat) :
    EntryMaps e va.toNat p ↔ ∃ pa, e.hit va = some pa ∧ pa.toNat = p :=
  have ⟨_, _, hm⟩ := pageMask_toNat h
  entryMaps_iff_of_mask hm va p

theorem entryMaps_toNat_iff {e : TlbEntry} (h : e.mask ∈ Config.pageMasks) (va pa : Word) :
    EntryMaps e va.toNat pa.toNat ↔ e.hit va = some pa := by
  rw [entryMaps_iff h]
  exact ⟨fun ⟨q, hq, hqp⟩ => BitVec.eq_of_toNat_eq hqp ▸ hq, fun hq => ⟨pa, hq, rfl⟩⟩

theorem not_entryMaps_iff {e : TlbEntry} (h : e.mask ∈ Config.pageMasks) (va : Word) :
    (∀ p, ¬ EntryMaps e va.toNat p) ↔ e.hit va = none := by
  simp [entryMaps_iff h, Option.eq_none_iff_forall_ne_some]

theorem low32_mod (a : Dword) (n : Nat) : (low32 a).toNat % n = a.toNat % 2 ^ 32 % n := by rw [low32_toNat]

/-! ### An access that lands -/

section lands
variable {s : State} {a : Dword} {n : Nat} {pa : Word} {m : Mapping} (h : Lands s a n pa m)
include h

theorem Lands.memRead_eq (k : AccessKind) : memRead s a n k = completeRead s m (low32 a) pa n k :=
  memRead_handled ((low32_mod a n).trans h.aligned) h.mapped h.found

theorem Lands.memWrite_eq (v : Dword) : memWrite s a n v = completeWrite s m (low32 a) pa n v :=
  memWrite_handled v ((low32_mod a n).trans h.aligned) h.mapped h.found

theorem Lands.memWrite_rom {image : List Byte} (hk : m.kind = .rom image) (v : Dword) :
    memWrite s a n v = .fault (.readOnlyWrite (low32 a) pa n s.context) :=
  (h.memWrite_eq v).trans (completeWrite_rom _ _ _ _ hk)

theorem Lands.faultTrap (hk : m.kind = .faultTrap) (k : AccessKind) (v : Dword) :
    memRead s a n k = .fault (.deviceFault (low32 a) pa n k s.context) ∧
      memWrite s a n v = .fault (.deviceFault (low32 a) pa n .write s.context) :=
  ⟨(h.memRead_eq k).trans (completeRead_faultTrap _ _ _ _ hk),
    (h.memWrite_eq v).trans (completeWrite_faultTrap _ _ _ _ hk)⟩

end lands

theorem access_misses {s : State} {a : Dword} {n : Nat} (hn : a.toNat % 2 ^ 32 % n = 0)
    (ht : translate s (low32 a) = none) (k : AccessKind) (v : Dword) :
    memRead s a n k = .fault (.tlbMiss (low32 a) n k s.context) ∧
      memWrite s a n v = .fault (.tlbMiss (low32 a) n .write s.context) := by
  rw [← low32_mod] at hn
  exact ⟨memRead_of_route_fault (route_miss k hn ht), memWrite_of_route_fault v (route_miss .write hn ht)⟩

/-! ### A copy within RAM completes (20_memory.md R96) -/

/-- Where byte `p` of physical memory is RAM. -/
def RamAt (map : List Mapping) (p : Nat) : Prop := ∃ m, lookup map (BitVec.ofNat 32 p) = some m ∧ IsRam m

theorem memRead_kseg0Addr {s : State} {p : Nat} (hp : p < 2 ^ 29) (h : RamAt s.map p) (k : AccessKind) :
    memRead s ((kseg0Addr p).setWidth 64) 1 k = .next ((Memory.read s.mem p).setWidth 64, s) := by
  obtain ⟨m, hl, hm⟩ := h
  rw [memRead_ram (Nat.mod_one _) (by rw [low32_setWidth]; exact translate_kseg0Addr s hp) hl hm,
    BitVec.toNat_ofNat, Nat.mod_eq_of_lt (by omega)]
  simp [Memory.readBytes, beValue_one]

theorem memWrite_kseg0Addr {s : State} {p : Nat} (hp : p < 2 ^ 29) (h : RamAt s.map p) (b : Byte) :
    memWrite s ((kseg0Addr p).setWidth 64) 1 (b.setWidth 64) = .next { s with mem := Memory.write s.mem p b } := by
  obtain ⟨m, hl, hm⟩ := h
  rw [memWrite_ram _ (Nat.mod_one _) (by rw [low32_setWidth]; exact translate_kseg0Addr s hp) hl hm,
    BitVec.toNat_ofNat, Nat.mod_eq_of_lt (by omega)]
  simp [Memory.writeBytes, beBytes]

/-- A copy within RAM, through kseg0: it completes and only storage changes, to `copied`. -/
theorem dma_ram {len p q : Nat} {s : State} (hp : p + len ≤ 2 ^ 29) (hq : q + len ≤ 2 ^ 29)
    (hsrc : ∀ i < len, RamAt s.map (p + i)) (hdst : ∀ i < len, RamAt s.map (q + i)) :
    ∃ mem, dma s (kseg0Addr p) (kseg0Addr q) len = .next { s with mem := mem } ∧
      ∀ x, Memory.read mem x = copied p q len (Memory.read s.mem) x := by
  induction len generalizing p q s with
  | zero => exact ⟨s.mem, rfl, fun x => (copied_zero ..).symm⟩
  | succ len ih =>
    have hread := memRead_kseg0Addr (by omega) (hsrc 0 (by omega)) .read
    have hwrite := memWrite_kseg0Addr (by omega) (hdst 0 (by omega)) (Memory.read s.mem p)
    obtain ⟨mem, hdma, hmem⟩ := ih (p := p + 1) (q := q + 1)
      (s := { s with mem := Memory.write s.mem q (Memory.read s.mem p) })
      (by omega) (by omega) (fun i hi => by rw [Nat.add_assoc, Nat.add_comm 1]; exact hsrc (i + 1) (by omega))
      (fun i hi => by rw [Nat.add_assoc, Nat.add_comm 1]; exact hdst (i + 1) (by omega))
    refine ⟨mem, ?_, fun x => ?_⟩
    · rw [dma_succ]
      simp only [Nat.add_zero] at hread hwrite
      rw [hread, andThen_next, hwrite, andThen_next, kseg0Addr_succ, kseg0Addr_succ, hdma]
    · rw [hmem, copied_succ]
      congr 1
      funext y
      exact Memory.read_write ..

/-! ### Bytes of a value -/

/-- The bytes of a number are those of its low part. -/
theorem byteOf_mod {n k : Nat} (hk : k < n) (v : Nat) : byteOf n (v % 256 ^ n) k = byteOf n v k := by
  have hpow : 256 ^ n = 256 ^ (n - 1 - k) * 256 ^ (k + 1) := by rw [← Nat.pow_add]; congr 1; omega
  apply BitVec.eq_of_toNat_eq
  simp only [byteOf, BitVec.toNat_ofNat]
  rw [hpow, Nat.mod_mul_right_div_self]
  exact Nat.mod_mod_of_dvd _ (Dvd.intro_left (256 ^ k) rfl)

theorem byteOf_u32 (s : State) (r : Reg) {k : Nat} (hk : k < 4) : byteOf 4 (u32 s r) k = byteOf 4 (s.reg r).toNat k :=
  byteOf_mod hk _

/-- Storage after a value is written into it, inside and outside. -/
theorem read_writeValue (mem : List Host.Cell) (a n : Nat) (v : Dword) :
    (∀ k < n, Memory.read (Memory.writeBytes mem a (beBytes n v)) (a + k) = byteOf n v.toNat k) ∧
      ∀ x, (x < a ∨ a + n ≤ x) → Memory.read (Memory.writeBytes mem a (beBytes n v)) x = Memory.read mem x := by
  constructor
  · intro k hk
    rw [Memory.read_writeBytes, if_pos (by omega), Nat.add_sub_cancel_left, beBytes_getElem? n v k hk, byteOf_eq]
    rfl
  · intro x hx
    exact Memory.read_writeBytes_outside _ _ _ _ (by rwa [beBytes_length])

theorem beValue_beBytes_four (v : Dword) : beValue (beBytes 4 v) = (low32 v).setWidth 64 := by
  apply BitVec.eq_of_toNat_eq
  rw [beValue_beBytes_toNat 4 v (by omega), BitVec.toNat_setWidth, low32_toNat]
  omega

/-- A 32-bit word of storage is the number its bytes stand for. -/
theorem low32_readBytes_toNat (mem : List Host.Cell) (a : Nat) :
    (low32 (beValue (Memory.readBytes mem a 4))).toNat = numberOf (fun k => Memory.read mem (a + k)) 4 := by
  have hlt := numberOf_lt (fun k => Memory.read mem (a + k)) 4
  rw [low32_toNat, beValue_toNat _ (by simp), readBytes_range, ← numberOf_eq]
  omega

theorem latch_toNat (s : State) (a : Nat) : (s.latch a).toNat = numberOf (fun k => Memory.read s.dev (a + k)) 4 :=
  low32_readBytes_toNat s.dev a

/-- A sign-extended word is the wrap of its own number. -/
theorem sext64_eq_sextWrap (w : Word) : sext64 w = sextWrap w.toNat :=
  sextWrap_of (BitVec.toInt_eq_toNat_bmod w)

/-- All bytes one. -/
theorem numberOf_ones (n : Nat) : numberOf (fun _ => 0xFF#8) n = 2 ^ (8 * n) - 1 := by
  induction n with
  | zero => rfl
  | succ n ih =>
    have := Nat.two_pow_pos (8 * n)
    rw [numberOf, ih, show 8 * (n + 1) = 8 * n + 8 by omega, Nat.pow_add, BitVec.toNat_ofNat]
    omega

/-! ### Registers of a window (20_memory.md R93 to R95) -/

/-- The state with the low word of a value in the latch at an address. -/
def latched (s : State) (pa : Word) (v : Dword) : State :=
  { s with dev := Memory.writeBytes s.dev pa.toNat (beBytes 4 v) }

section window
variable {s : State} {a : Dword} {pa : Word} {m : Mapping} {id : Nat} {regs : List DeviceReg}
  (h : Lands s a 4 pa m) (hk : m.kind = .device id regs)

include h

theorem Lands.offset : m.lo + (pa.toNat - m.lo) = pa.toNat :=
  Nat.add_sub_cancel' (lookup_contains h.found).1

include hk

/-- A word written to a latch or an address latch. -/
theorem Lands.memWrite_latch (hr : regAt regs (pa.toNat - m.lo) 4 = some .latch ∨
    regAt regs (pa.toNat - m.lo) 4 = some .addressLatch) (v : Dword) : memWrite s a 4 v = .next (latched s pa v) := by
  rw [h.memWrite_eq, latched]
  rcases hr with hr | hr
  · simp only [completeWrite, writeHandled, handleWrite, startedCopy, hk, hr, h.offset]; rfl
  · simp only [completeWrite, writeHandled, handleWrite, startedCopy, hk, hr, h.offset]; rfl

/-- A word written to a length register is latched, then the copy runs. -/
theorem Lands.memWrite_length {srcOff dstOff : Nat}
    (hr : regAt regs (pa.toNat - m.lo) 4 = some (.dmaLength srcOff dstOff)) (v : Dword) :
    memWrite s a 4 v = dma (latched s pa v) ((latched s pa v).latch (m.lo + srcOff))
      ((latched s pa v).latch (m.lo + dstOff)) (low32 v).toNat := by
  rw [h.memWrite_eq, latched]
  simp only [completeWrite, writeHandled, handleWrite, startedCopy, hk, hr, h.offset]; rfl

theorem Lands.memWrite_status (hr : regAt regs (pa.toNat - m.lo) 4 = some .status) (v : Dword) :
    memWrite s a 4 v = .next s := by
  rw [h.memWrite_eq]
  simp only [completeWrite, writeHandled, handleWrite, startedCopy, hk, hr]; rfl

theorem Lands.memRead_latch (hr : regAt regs (pa.toNat - m.lo) 4 = some .latch) (k : AccessKind) :
    memRead s a 4 k = .next (beValue (Memory.readBytes s.dev pa.toNat 4), s) := by
  rw [h.memRead_eq]
  simp only [completeRead, handleRead, hk, hr, h.offset]; rfl

theorem Lands.memRead_status (hr : regAt regs (pa.toNat - m.lo) 4 = some .status) (k : AccessKind) :
    memRead s a 4 k = .next (0#64, s) := by
  rw [h.memRead_eq]
  simp only [completeRead, handleRead, hk, hr]; rfl

end window

/-! ### `SW` and `LW` by their access -/

section word
variable {s : State} {rt base : Reg} {offset : BitVec 16}

theorem exec_sw_of_next {t : State} (h : memWrite s (effAddr s base offset) 4 (s.reg rt) = .next t) :
    exec (.sw rt offset base) s = .next t.advance := by
  rw [exec_sw, store, h, andThen_next]

theorem exec_sw_of_fault {f : Fault} (h : memWrite s (effAddr s base offset) 4 (s.reg rt) = .fault f) :
    exec (.sw rt offset base) s = .fault f := by
  rw [exec_sw, store, h, andThen_fault]

theorem exec_lw_of_next {t : State} {v : Dword} (h : memRead s (effAddr s base offset) 4 .read = .next (v, t)) :
    exec (.lw rt offset base) s = writeReg t rt (sext64 (low32 v)) := by
  rw [exec_lw, load, h, andThen_next]

end word

/-! ### The statements -/

/-- Settles O19: the fetch routes `pc` first, and all targets but those of register jumps end in two zero bits. -/
theorem misalignedFetchFaults : Obligations.MisalignedFetchFaults := by
  refine ⟨fun s h0 hpc => ?_, fun s s' t w i hpc hf hs => ?_⟩
  · have hmis : (low32 (beginStep s).pc).toNat % 4 ≠ 0 := by
      rw [low32_toNat, State.beginStep_pc]; omega
    have hfetch : fetch (beginStep s) = .fault (.misaligned (low32 s.pc) 4 .fetch (beginStep s).context) := by
      rw [fetch_eq, memRead_of_route_fault (route_misaligned .fetch hmis)]; rfl
    rw [step_of_fetch_fault h0 hfetch]
    rfl
  · have hk : Kept (beginStep s) s' := kept_of_fetchDecode hf
    have hpc' : s'.pc.toNat % 4 = 0 := by rw [hk.pc]; exact hpc
    obtain ⟨-, u, hu, rfl⟩ := of_step_next_of_fetchDecode hf hs
    refine ⟨fun hbd => ?_, fun target ht => ?_⟩
    · rw [State.finishStep_pc, hbd]
      exact (exec_ran hu).pc_aligned hpc'
    · have htaken : Taken s i := ((pendingTargetIsOfTakenTransfer s s' _ w i hf hs).1).mp ⟨target, ht⟩
      exact staged_aligned (kind_of_taken htaken) hpc' hk.bd hu ht

/-- Settles O20: `route` faults in this order, then the handler. -/
theorem accessFaultsInOrder : Obligations.AccessFaultsInOrder := by
  intro s a v n k _
  refine ⟨fun hn => ?_, fun hn ht => access_misses hn ht k v, fun pa hn ht hl => ?_,
    fun pa m image h hk => h.memWrite_rom hk v, fun pa m h hk => h.faultTrap hk k v⟩
  · rw [← low32_mod] at hn
    exact ⟨memRead_of_route_fault (route_misaligned k hn), memWrite_of_route_fault v (route_misaligned .write hn)⟩
  · rw [← low32_mod] at hn
    have hl' := lookup_none.mpr hl
    exact ⟨memRead_of_route_fault (route_unmapped k hn ht hl'), memWrite_of_route_fault v (route_unmapped .write hn ht hl')⟩

/-- Settles O21: the configuration is checked before the step, and nothing in the step refuses. -/
theorem onlyBadConfigurationsRefused : Obligations.OnlyBadConfigurationsRefused := by
  refine ⟨fun map => ?_, fun map entryPc h => ?_, fun s h => ?_, fun s h ⟨i, hi⟩ => ?_, fun s h hmasks => ?_⟩
  · simp [mapWf, Mapping.wf, and_assoc]
  · simp [createSession, h]
  · exact step_of_configRefusal (by simp [configRefusal, h])
  · have hne : configRefusal s ≠ none := fun h0 => hi ((config_iff.mp h0).2 i)
    exact step_of_configRefusal (configRefusal_of_mapWf h hne)
  · have hno := step_not_refused (config_iff.mpr ⟨h, hmasks⟩)
    cases hstep : step s with
    | next t => exact .inl ⟨t, rfl⟩
    | fault f => exact .inr ⟨f, rfl⟩
    | refused r => exact absurd hstep (hno r)

/-- Settles O27: both direct segments subtract their base. -/
theorem directSegmentsSubtractBase : Obligations.DirectSegmentsSubtractBase := by
  refine fun s => ⟨fun va hlo hhi => ⟨_, translate_kseg0 s hlo hhi, sub_kseg0Base_toNat hlo, ?_⟩,
    fun va hlo hhi => ⟨_, translate_kseg1 s hlo hhi, sub_kseg1Base_toNat hlo, ?_⟩,
    fun x hx => ⟨translate_kseg0_add s hx, translate_kseg1_add s hx⟩⟩
  · rw [sub_kseg0Base_toNat hlo]; omega
  · rw [sub_kseg1Base_toNat hlo]; omega

/-- Settles O28: the lookup is the first hit in index order, and a hit is `EntryMaps`. -/
theorem tableLookupTakesFirstHit : Obligations.TableLookupTakesFirstHit := by
  refine ⟨fun s va hmask htr => ?_, fun map entryPc i => ?_, fun s a v n k hv htr _ hn => ?_⟩
  · rw [translate_of_translated s htr, tlbLookup_eq_findSome?]
    constructor
    · intro pa
      simp only [Fin.findSome?_eq_some_iff, entryMaps_toNat_iff (hmask _), not_entryMaps_iff (hmask _)]
    · simp only [Fin.findSome?_eq_none_iff, not_entryMaps_iff (hmask _)]
  · rw [tlb_resetWith]
    exact ⟨rfl, rfl⟩
  · refine access_misses hn ?_ k v
    rw [translate_of_translated s htr, tlbLookup_eq_findSome?, Fin.findSome?_eq_none_iff]
    exact fun i => TlbEntry.hit_of_invalid (hv i).1 (hv i).2 _

/-- Settles O29: the bytes of a value and the value of bytes are inverse, and a write of bytes has a frame. -/
theorem ramAccessIsBigEndianBytes : Obligations.RamAccessIsBigEndianBytes := by
  intro s a v n k pa m hn h hm
  have hal := (low32_mod a n).trans h.aligned
  obtain ⟨hin, hout⟩ := read_writeValue s.mem pa.toNat n v
  refine ⟨⟨_, memRead_ram hal h.mapped h.found hm, ?_⟩, ⟨_, memWrite_ram v hal h.mapped h.found hm, hin, hout,
    fun _ => rfl, fun _ => rfl, rfl, rfl, rfl, rfl, sameSystem_of rfl rfl rfl rfl rfl rfl rfl⟩⟩
  rw [beValue_toNat _ (by simpa using (width_bounds hn).1), readBytes_range, numberOf_eq]

/-- Settles O30: the store writes the four bytes that the fetch reads. -/
theorem nextFetchSeesStore : Obligations.NextFetchSeesStore := by
  intro s t rt base offset a pa m hstore hm hfetch ht
  have hw := memWrite_ram (s.reg rt) ((low32_mod _ 4).trans hstore.aligned) hstore.mapped hstore.found hm
  have hmem : t.mem = Memory.writeBytes s.mem pa.toNat (beBytes 4 (s.reg rt)) := by
    cases (exec_sw_of_next hw).symm.trans ht
    rfl
  have hbytes : Memory.readBytes t.mem pa.toNat 4 = beBytes 4 (s.reg rt) := by
    have := Memory.readBytes_writeBytes s.mem pa.toNat (beBytes 4 (s.reg rt))
    rwa [beBytes_length, ← hmem] at this
  have hr := exec_ran ht
  rw [memRead_ram ((low32_mod a 4).trans hfetch.aligned) ((translate_congr hr.tlb _).trans hfetch.mapped)
    ((congrArg (lookup · pa) hr.map).trans hfetch.found) hm, hbytes, beValue_beBytes_four]

/-- Settles O31: ROM reads its image and has no write. -/
theorem romReadsAndRefusesWrites : Obligations.RomReadsAndRefusesWrites := by
  intro s a v n k pa m image hn h hk
  obtain ⟨r, hr, hv⟩ := memRead_plainNumber (k := k) h hn (.inr (.inr ⟨image, hk⟩))
  refine ⟨⟨r, hr, hv.trans (numberOf_congr fun j _ => ?_)⟩, h.memWrite_rom hk v⟩
  have := (lookup_contains h.found).1
  simp only [plainByte, hk]
  rw [show pa.toNat + j - m.lo = pa.toNat - m.lo + j by omega]

/-- Settles O32: each handler's own answer. -/
theorem openBusAndFaultTrap : Obligations.OpenBusAndFaultTrap := by
  refine ⟨fun s a v n k pa m hn h => ⟨fun hk => ⟨?_, ?_⟩, fun hk => h.faultTrap hk k v⟩, ?_⟩
  · obtain ⟨r, hr, hv⟩ := memRead_plainNumber (k := k) h hn (.inr (.inl hk))
    refine ⟨r, hr, hv.trans ?_⟩
    rw [← numberOf_ones, plainNumber]
    exact numberOf_congr fun j _ => by simp only [plainByte, hk]
  · exact (h.memWrite_eq v).trans (completeWrite_openBus _ _ _ _ hk)
  · simp [Config.refMap]

/-- Settles O33: an access uses the low word of its address alone. -/
theorem upperAddressBitsIgnored : Obligations.UpperAddressBitsIgnored := by
  refine ⟨fun s base offset => wrap64_of_toInt ?_, fun s a a' v n k ha => ?_⟩
  · rw [effAddr, BitVec.toInt_add, sext_imm64, s64]
  · have hlow : low32 a = low32 a' := by
      apply BitVec.eq_of_toNat_eq
      rw [low32_toNat, low32_toNat, ha]
    constructor
    · rw [memRead, memRead, route_congr_low32 s hlow, hlow]
    · rw [memWrite, memWrite, route_congr_low32 s hlow, hlow]

/-- Settles O34: byte by byte in every state, and by induction on the length within RAM. -/
theorem dmaCopiesByteByByte : Obligations.DmaCopiesByteByByte := by
  refine ⟨fun s src dst len => ⟨rfl, dma_succ s src dst len⟩, fun s p q len hp hq hsrc hdst => ?_⟩
  obtain ⟨mem, hdma, hmem⟩ := dma_ram hp hq hsrc hdst
  exact ⟨_, hdma, hmem, fun _ => rfl, fun _ => rfl, rfl, rfl, rfl, rfl, sameSystem_of rfl rfl rfl rfl rfl rfl rfl⟩

/-- Settles O35: the store is the latch, then the copy between the latched addresses. -/
theorem lengthWriteCopies : Obligations.LengthWriteCopies := by
  intro s rt base offset pa m id srcOff dstOff regs h hk hr
  have hw := h.memWrite_length hk hr (s.reg rt)
  obtain ⟨hin, hout⟩ := read_writeValue s.dev pa.toNat 4 (s.reg rt)
  refine ⟨latched s pa (s.reg rt), fun k hk4 => (hin k hk4).trans (byteOf_u32 s rt hk4).symm, hout, rfl,
    _, _, latch_toNat _ _, latch_toNat _ _, fun t ht => ?_, fun f hf => ?_⟩
  · exact exec_sw_of_next (hw.trans (by rw [low32_toNat]; exact ht))
  · exact exec_sw_of_fault (hw.trans (by rw [low32_toNat]; exact hf))

/-- Settles O36: each register of a window by its kind. -/
theorem windowRegistersLatchAndSynthesize : Obligations.WindowRegistersLatchAndSynthesize := by
  intro s rt base offset pa m id regs h hk
  refine ⟨fun hr => ?_, fun hr => ?_, fun hr => ⟨?_, ?_⟩⟩
  · obtain ⟨hin, hout⟩ := read_writeValue s.dev pa.toNat 4 (s.reg rt)
    exact ⟨_, exec_sw_of_next (h.memWrite_latch hk hr _), fun k hk4 => (hin k hk4).trans (byteOf_u32 s rt hk4).symm, hout,
      fun _ => rfl, fun _ => rfl, rfl, rfl, rfl, rfl, sameSystem_of rfl rfl rfl rfl rfl rfl rfl⟩
  · refine writes_of (exec_lw_of_next (h.memRead_latch hk hr .read)) ?_
    rw [sext64_eq_sextWrap, low32_readBytes_toNat]
  · exact writes_of (exec_lw_of_next (h.memRead_status hk hr .read)) rfl
  · rw [exec_sw_of_next (h.memWrite_status hk hr _)]
    exact onlyAdvances s

end Sys2Proof.Claims
end

section
/-! PROOFS. Encodings (30_encoding.md): the fields of a word, which rows share a word, what a row's word encodes back to;
then the statements of that family. -/

namespace Sys2Proof

/-! ### Fields as numbers, and a word from its fields (30_encoding.md R111, R112) -/

section fields
variable (w : Word)

theorem fieldOpcode_toNat : (fieldOpcode w).toNat = w.toNat / 2 ^ 26 := by
  simp only [fieldOpcode, BitVec.extractLsb'_toNat, Nat.shiftRight_eq_div_pow]; omega

theorem fieldRs_toNat : (fieldRs w).toNat = w.toNat / 2 ^ 21 % 32 := by
  rw [fieldRs, BitVec.extractLsb'_toNat, Nat.shiftRight_eq_div_pow]

theorem fieldRt_toNat : (fieldRt w).toNat = w.toNat / 2 ^ 16 % 32 := by
  rw [fieldRt, BitVec.extractLsb'_toNat, Nat.shiftRight_eq_div_pow]

theorem fieldRd_toNat : (fieldRd w).toNat = w.toNat / 2 ^ 11 % 32 := by
  rw [fieldRd, BitVec.extractLsb'_toNat, Nat.shiftRight_eq_div_pow]

theorem fieldSa_toNat : (fieldSa w).toNat = w.toNat / 2 ^ 6 % 32 := by
  rw [fieldSa, BitVec.extractLsb'_toNat, Nat.shiftRight_eq_div_pow]

theorem fieldFunct_toNat : (fieldFunct w).toNat = w.toNat % 64 := by
  rw [fieldFunct, BitVec.extractLsb'_toNat, Nat.shiftRight_zero]

theorem fieldImm_toNat : (fieldImm w).toNat = w.toNat % 2 ^ 16 := by
  rw [fieldImm, BitVec.extractLsb'_toNat, Nat.shiftRight_zero]

theorem fieldTarget_toNat : (fieldTarget w).toNat = w.toNat % 2 ^ 26 := by
  rw [fieldTarget, BitVec.extractLsb'_toNat, Nat.shiftRight_zero]

theorem fieldCode_toNat : (fieldCode w).toNat = w.toNat / 2 ^ 6 % 2 ^ 20 := by
  rw [fieldCode, BitVec.extractLsb'_toNat, Nat.shiftRight_eq_div_pow]

@[simp] theorem encodeR_fields :
    encodeR (fieldOpcode w) (fieldRs w) (fieldRt w) (fieldRd w) (fieldSa w) (fieldFunct w) = w := by
  apply BitVec.eq_of_toNat_eq
  rw [encodeR_toNat, fieldOpcode_toNat, fieldRs_toNat, fieldRt_toNat, fieldRd_toNat, fieldSa_toNat, fieldFunct_toNat]
  omega

@[simp] theorem encodeI_fields : encodeI (fieldOpcode w) (fieldRs w) (fieldRt w) (fieldImm w) = w := by
  apply BitVec.eq_of_toNat_eq
  rw [encodeI_toNat, fieldOpcode_toNat, fieldRs_toNat, fieldRt_toNat, fieldImm_toNat]
  omega

@[simp] theorem encodeJ_fields : encodeJ (fieldOpcode w) (fieldTarget w) = w := by
  apply BitVec.eq_of_toNat_eq
  rw [encodeJ_toNat, fieldOpcode_toNat, fieldTarget_toNat]
  omega

@[simp] theorem encodeCode_fields : encodeCode (fieldOpcode w) (fieldCode w) (fieldFunct w) = w := by
  apply BitVec.eq_of_toNat_eq
  rw [encodeCode_toNat, fieldOpcode_toNat, fieldCode_toNat, fieldFunct_toNat]
  omega

end fields

/-! ### The layouts by shifts (30_encoding.md R112) -/

theorem encodeR_eq_shifts (op : BitVec 6) (rs rt rd sa : BitVec 5) (fn : BitVec 6) : encodeR op rs rt rd sa fn =
    op.setWidth 32 <<< 26 ||| rs.setWidth 32 <<< 21 ||| rt.setWidth 32 <<< 16 ||| rd.setWidth 32 <<< 11 |||
      sa.setWidth 32 <<< 6 ||| fn.setWidth 32 := by
  rw [← BitVec.setWidth_eq (encodeR op rs rt rd sa fn), encodeR]
  simp only [BitVec.setWidth_append_eq_shiftLeft_setWidth_or, BitVec.shiftLeft_or_distrib, ← BitVec.shiftLeft_add]

theorem encodeI_eq_shifts (op : BitVec 6) (rs rt : BitVec 5) (imm : BitVec 16) : encodeI op rs rt imm =
    op.setWidth 32 <<< 26 ||| rs.setWidth 32 <<< 21 ||| rt.setWidth 32 <<< 16 ||| imm.setWidth 32 := by
  rw [← BitVec.setWidth_eq (encodeI op rs rt imm), encodeI]
  simp only [BitVec.setWidth_append_eq_shiftLeft_setWidth_or, BitVec.shiftLeft_or_distrib, ← BitVec.shiftLeft_add]

theorem encodeJ_eq_shifts (op : BitVec 6) (target : BitVec 26) :
    encodeJ op target = op.setWidth 32 <<< 26 ||| target.setWidth 32 := by
  rw [← BitVec.setWidth_eq (encodeJ op target), encodeJ, BitVec.setWidth_append_eq_shiftLeft_setWidth_or]

/-! ### What a match fixes (30_encoding.md R116) -/

theorem Descriptor.matches_iff {d : Descriptor} {w : Word} : d.matches w = true ↔ w &&& d.mask = d.expected := beq_iff_eq

/-- A field that the mask covers has the row's value in every word of the row. -/
theorem Descriptor.field_of_matches {d : Descriptor} {w : Word} (h : d.matches w = true) (start len : Nat)
    (hm : d.mask.extractLsb' start len = BitVec.allOnes len) :
    w.extractLsb' start len = d.expected.extractLsb' start len := by
  rw [← matches_iff.mp h, BitVec.extractLsb'_and, hm, BitVec.and_allOnes]

/-- A field of a word of a row, by the row: its own value where the mask covers the field, else the word's. -/
def Descriptor.fieldIn (d : Descriptor) (w : Word) (start len : Nat) : BitVec len :=
  if d.mask.extractLsb' start len = BitVec.allOnes len then d.expected.extractLsb' start len else w.extractLsb' start len

theorem Descriptor.fieldIn_eq {d : Descriptor} {w : Word} (h : d.matches w = true) (start len : Nat) :
    d.fieldIn w start len = w.extractLsb' start len := by
  unfold fieldIn
  split
  · next hm => exact (field_of_matches h _ _ hm).symm
  · rfl

/-- What a row builds from a word of its own encodes back to that word. -/
def Descriptor.Inverts (d : Descriptor) : Prop := ∀ w : Word, d.matches w = true → encode (d.build w) = w

section inverts
variable {d : Descriptor}

/-- A row whose builder leaves no field out: what the encoder writes for it is, field by field, `fieldIn`. One lemma for each
format; the row's own builder meets the hypothesis by evaluation. -/
theorem Descriptor.Inverts.ofR (h : ∀ w, encode (d.build w) = encodeR (d.fieldIn w 26 6) (d.fieldIn w 21 5)
    (d.fieldIn w 16 5) (d.fieldIn w 11 5) (d.fieldIn w 6 5) (d.fieldIn w 0 6) := by intro w; rfl) : d.Inverts := by
  intro w hw
  simp only [h, fieldIn_eq hw]
  exact encodeR_fields w

theorem Descriptor.Inverts.ofI (h : ∀ w, encode (d.build w) = encodeI (d.fieldIn w 26 6) (d.fieldIn w 21 5)
    (d.fieldIn w 16 5) (d.fieldIn w 0 16) := by intro w; rfl) : d.Inverts := by
  intro w hw
  simp only [h, fieldIn_eq hw]
  exact encodeI_fields w

theorem Descriptor.Inverts.ofJ (h : ∀ w, encode (d.build w) = encodeJ (d.fieldIn w 26 6) (d.fieldIn w 0 26) := by
    intro w; rfl) : d.Inverts := by
  intro w hw
  simp only [h, fieldIn_eq hw]
  exact encodeJ_fields w

theorem Descriptor.Inverts.ofCode (h : ∀ w, encode (d.build w) = encodeCode (d.fieldIn w 26 6) (d.fieldIn w 6 20)
    (d.fieldIn w 0 6) := by intro w; rfl) : d.Inverts := by
  intro w hw
  simp only [h, fieldIn_eq hw]
  exact encodeCode_fields w

end inverts

theorem tableAliases_inverts : ∀ d ∈ tableAliases, d.Inverts := by
  simp only [tableAliases, List.forall_mem_cons]
  exact ⟨.ofR, .ofI, .ofI, nofun⟩

theorem tableShifts_inverts : ∀ d ∈ tableShifts, d.Inverts := by
  simp only [tableShifts, List.forall_mem_cons, List.not_mem_nil, IsEmpty.forall_iff, implies_true, and_true]
  and_intros <;> exact .ofR

theorem tableSpecial_inverts : ∀ d ∈ tableSpecial, d.Inverts := by
  simp only [tableSpecial, List.forall_mem_cons]
  exact ⟨.ofR, .ofR, .ofCode, .ofCode, .ofR, .ofR, .ofR, .ofR, .ofR, .ofR, .ofR, .ofR, .ofR, .ofR, .ofR, .ofR, nofun⟩

theorem tableRegister_inverts : ∀ d ∈ tableRegister, d.Inverts := by
  simp only [tableRegister, List.forall_mem_cons, List.not_mem_nil, IsEmpty.forall_iff, implies_true, and_true]
  and_intros <;> exact .ofR

theorem tableBranch_inverts : ∀ d ∈ tableBranch, d.Inverts := by
  simp only [tableBranch, List.forall_mem_cons]
  exact ⟨.ofI, .ofI, .ofI, .ofI, .ofI, .ofI, .ofI, .ofI, .ofJ, .ofJ, .ofI, .ofI, .ofI, .ofI, nofun⟩

theorem tableImmediate_inverts : ∀ d ∈ tableImmediate, d.Inverts := by
  simp only [tableImmediate, List.forall_mem_cons, List.not_mem_nil, IsEmpty.forall_iff, implies_true, and_true]
  and_intros <;> exact .ofI

theorem tableCop_inverts : ∀ d ∈ tableCop, d.Inverts := by
  simp only [tableCop, List.forall_mem_cons]
  exact ⟨.ofR, .ofR, .ofR, .ofR, .ofR, .ofR, .ofR, .ofR, .ofR, .ofJ, nofun⟩

theorem tableLikely_inverts : ∀ d ∈ tableLikely, d.Inverts := by
  simp only [tableLikely, List.forall_mem_cons, List.not_mem_nil, IsEmpty.forall_iff, implies_true, and_true]
  and_intros <;> exact .ofI

theorem tableMemory_inverts : ∀ d ∈ tableMemory, d.Inverts := by
  simp only [tableMemory, List.forall_mem_cons, List.not_mem_nil, IsEmpty.forall_iff, implies_true, and_true]
  and_intros <;> exact .ofI

theorem table_inverts : ∀ d ∈ table, d.Inverts := by
  simp only [table, List.forall_mem_append]
  exact ⟨⟨⟨⟨⟨⟨⟨⟨tableAliases_inverts, tableShifts_inverts⟩, tableSpecial_inverts⟩, tableRegister_inverts⟩,
    tableBranch_inverts⟩, tableImmediate_inverts⟩, tableCop_inverts⟩, tableLikely_inverts⟩, tableMemory_inverts⟩

/-- What decodes encodes back to its word (30_encoding.md R123). -/
theorem encode_of_decodeWord {w : Word} {i : Instr} (h : decodeWord w = some i) : encode i = w := by
  obtain ⟨d, hd, hm, rfl⟩ := row_of_decodeWord h
  exact table_inverts d hd w hm

/-! ### Which rows share a word (30_encoding.md R117) -/

/-- Positions of rows that share a word: `NOP` and `SLL`, `B` and `BEQ`, `B` and `BGEZ`. -/
def Overlap (j k : Nat) : Prop := (j = 0 ∧ k = 3) ∨ (j = 1 ∧ k = 55) ∨ (j = 2 ∧ k = 46)

theorem aliases_conflict_iff : ∀ (j : Fin tableAliases.length) (k : Fin tableGeneral.length),
    tableAliases[j].conflicts tableGeneral[k] = false ↔
      (j.val = 0 ∧ k.val = 0) ∨ (j.val = 1 ∧ k.val = 52) ∨ (j.val = 2 ∧ k.val = 43) := by decide +kernel

theorem conflicts_of_pairwise {l : List Descriptor} (h : l.Pairwise fun d e => d.conflicts e = true) {j k : Nat}
    (hjk : j < k) {d e : Descriptor} (hd : l[j]? = some d) (he : l[k]? = some e) : d.conflicts e = true := by
  obtain ⟨hj, rfl⟩ := List.getElem?_eq_some_iff.mp hd
  obtain ⟨hk, rfl⟩ := List.getElem?_eq_some_iff.mp he
  exact List.pairwise_iff_getElem.mp h j k hj hk hjk

/-- The three aliases conflict with each other, the general rows too, and each of the three with every general row but the
one it specialises. -/
theorem table_conflicts_iff {j k : Nat} (hjk : j < k) {d e : Descriptor} (hd : table[j]? = some d)
    (he : table[k]? = some e) : d.conflicts e = false ↔ Overlap j k := by
  have h3 : tableAliases.length = 3 := rfl
  rw [table_eq, List.getElem?_append, h3] at hd he
  unfold Overlap
  split at hd <;> split at he
  · exact iff_of_false (by simp [conflicts_of_pairwise tableAliases_conflict hjk hd he]) (by omega)
  · next hj hk =>
    obtain ⟨hj', rfl⟩ := List.getElem?_eq_some_iff.mp hd
    obtain ⟨hk', rfl⟩ := List.getElem?_eq_some_iff.mp he
    refine (aliases_conflict_iff ⟨j, hj'⟩ ⟨k - 3, hk'⟩).trans ?_
    simp only
    omega
  · omega
  · exact iff_of_false (by simp [conflicts_of_pairwise tableGeneral_conflict (by omega : j - 3 < k - 3) hd he]) (by omega)

theorem Descriptor.conflicts_eq_false {d e : Descriptor} {w : Word} (hd : d.matches w = true) (he : e.matches w = true) :
    d.conflicts e = false := by
  by_contra h
  simp [not_both (Bool.not_eq_false _ ▸ h) hd] at he

section specialises
variable {d e : Descriptor} (h : d.specialises e = true)
include h

theorem Descriptor.mask_of_specialises : d.mask &&& e.mask = e.mask := by
  rw [specialises, Bool.and_eq_true, beq_iff_eq] at h
  rw [BitVec.and_comm]
  exact h.1

theorem Descriptor.matches_of_specialises {w : Word} (hw : d.matches w = true) : e.matches w = true := by
  have hmask := mask_of_specialises h
  rw [specialises, Bool.and_eq_true, beq_iff_eq, beq_iff_eq] at h
  rw [matches_iff] at hw ⊢
  rw [← hmask, ← BitVec.and_assoc, hw]
  exact h.2

end specialises

/-- Of the three pairs the earlier row is the more specific. -/
theorem Overlap.specialises {j k : Nat} (h : Overlap j k) {d e : Descriptor} (hd : table[j]? = some d)
    (he : table[k]? = some e) : d.specialises e = true ∧ d.mask ≠ e.mask ∧ d.matches d.expected = true := by
  rcases h with ⟨rfl, rfl⟩ | ⟨rfl, rfl⟩ | ⟨rfl, rfl⟩ <;> cases hd <;> cases he <;> decide

/-- The two rows share a word. -/
theorem sharedWord_iff {j k : Nat} (hjk : j < k) {d e : Descriptor} (hd : table[j]? = some d)
    (he : table[k]? = some e) :
    (∃ w : Word, w &&& d.mask = d.expected ∧ w &&& e.mask = e.expected) ↔ Overlap j k := by
  simp only [← Descriptor.matches_iff]
  constructor
  · rintro ⟨w, hwd, hwe⟩
    exact (table_conflicts_iff hjk hd he).mp (Descriptor.conflicts_eq_false hwd hwe)
  · intro h
    obtain ⟨hspec, -, hw⟩ := h.specialises hd he
    exact ⟨_, hw, Descriptor.matches_of_specialises hspec hw⟩

/-! ### The decoder is the search of the table (30_encoding.md R116) -/

theorem decodeWord_eq_some_iff (w : Word) (i : Instr) : decodeWord w = some i ↔
    ∃ (k : Nat) (d : Descriptor), table[k]? = some d ∧ w &&& d.mask = d.expected ∧ i = d.build w ∧
      ∀ j < k, ∀ e : Descriptor, table[j]? = some e → w &&& e.mask ≠ e.expected := by
  simp only [decodeWord, Option.map_eq_some_iff, List.find?_eq_some_iff_getElem, ← Descriptor.matches_iff,
    List.getElem?_eq_some_iff]
  constructor
  · rintro ⟨d, ⟨hm, k, hk, hd, hbefore⟩, rfl⟩
    refine ⟨k, d, ⟨hk, hd⟩, hm, rfl, ?_⟩
    rintro j hj e ⟨_, rfl⟩
    simpa [Descriptor.matches] using hbefore j hj
  · rintro ⟨k, d, ⟨hk, hd⟩, hm, rfl, hbefore⟩
    exact ⟨d, ⟨hm, k, hk, hd, fun j hj => by simpa [Descriptor.matches] using hbefore j hj _ ⟨hj.trans hk, rfl⟩⟩, rfl⟩

theorem decodeWord_eq_none_iff (w : Word) : decodeWord w = none ↔ ∀ d ∈ table, w &&& d.mask ≠ d.expected := by
  simp only [decodeWord, Option.map_eq_none_iff, List.find?_eq_none, Descriptor.matches_iff, ne_eq]

/-! ### The general rows' words that belong to one of the three aliases (30_encoding.md R131) -/

/-- What a general row would build from a word that one of the three aliases matches is ill-formed: that row fixes the
fields that make it so. -/
theorem not_wf_of_alias {a d : Descriptor} (ha : a ∈ tableAliases) (hd : d ∈ tableGeneral) {w : Word}
    (hwa : a.matches w = true) (hwd : d.matches w = true) : (d.build w).wf = false := by
  obtain ⟨⟨j, hj⟩, rfl⟩ := List.mem_iff_get.mp ha
  obtain ⟨⟨k, hk⟩, rfl⟩ := List.mem_iff_get.mp hd
  rcases (aliases_conflict_iff ⟨j, hj⟩ ⟨k, hk⟩).mp (Descriptor.conflicts_eq_false hwa hwd) with
    ⟨rfl, rfl⟩ | ⟨rfl, rfl⟩ | ⟨rfl, rfl⟩
  · have field := Descriptor.field_of_matches (d := ⟨0xFFFFFFFF, 0x00000000, fun _ => .nop⟩) hwa
    have hrd : fieldRd w = 0#5 := field 11 5 (by decide)
    have hrt : fieldRt w = 0#5 := field 16 5 (by decide)
    have hsa : fieldSa w = 0#5 := field 6 5 (by decide)
    change (Instr.sll (fieldRd w) (fieldRt w) (fieldSa w)).wf = false
    rw [hrd, hrt, hsa]; rfl
  · have field := Descriptor.field_of_matches (d := ⟨0xFFFF0000, 0x10000000, fun w => .b (fieldImm w)⟩) hwa
    have hrs : fieldRs w = 0#5 := field 21 5 (by decide)
    have hrt : fieldRt w = 0#5 := field 16 5 (by decide)
    change (Instr.beq (fieldRs w) (fieldRt w) (fieldImm w)).wf = false
    rw [hrs, hrt]; rfl
  · have field := Descriptor.field_of_matches (d := ⟨0xFFFF0000, 0x04010000, fun w => .bRegimm (fieldImm w)⟩) hwa
    have hrs : fieldRs w = 0#5 := field 21 5 (by decide)
    change (Instr.bgez (fieldRs w) (fieldImm w)).wf = false
    rw [hrs]; rfl

theorem not_wf_iff (i : Instr) : i.wf = false ↔
    i = .sll 0#5 0#5 0#5 ∨ (∃ offset, i = .beq 0#5 0#5 offset) ∨ ∃ offset, i = .bgez 0#5 offset := by
  cases i with
  | sll rd rt sa => simp [Instr.wf, and_assoc]
  | beq rs rt offset => simp [Instr.wf]
  | bgez rs offset => simp [Instr.wf]
  | _ => simp [Instr.wf]

/-! ### Decoding what was encoded (30_encoding.md R131) -/

section
open Laws.EncodeRow

/-- The row of every instruction, from the lemma of each. -/
theorem encodeRow (i : Instr) : Laws.EncodeRow.Statement i := by
  cases i
  exacts [nop, b _, bRegimm _, sll .., srl .., sra .., sllv .., srlv .., srav .., jr _, jalr .., syscall _, breakI _, sync,
    mfhi _, mthi _, mflo _, mtlo _, dsllv .., dsrlv .., dsrav .., mult .., multu .., div .., divu .., add .., addu ..,
    sub .., subu .., and .., or .., xor .., nor .., slt .., sltu .., dadd .., daddu .., dsub .., dsubu .., dsll ..,
    dsrl .., dsra .., dsll32 .., dsrl32 .., dsra32 .., bltz .., bgez .., bltzl .., bgezl .., bltzal .., bgezal ..,
    bltzall .., bgezall .., j _, jal _, beq .., bne .., blez .., bgtz .., addi .., addiu .., slti .., sltiu .., andi ..,
    ori .., xori .., lui .., mfc0 .., dmfc0 .., mtc0 .., dmtc0 .., tlbr, tlbwi, tlbwr, tlbp, eret, cop1 _, beql ..,
    bnel .., blezl .., bgtzl .., daddi .., daddiu .., ldl .., ldr .., lb .., lh .., lwl .., lw .., lbu .., lhu .., lwr ..,
    lwu .., sb .., sh .., swl .., sw .., sdl .., sdr .., swr .., cache .., lwc1 .., ldc1 .., ld .., swc1 .., sdc1 ..,
    sd ..]

end

theorem decodeWord_encode {i : Instr} (hi : i.wf = true) : decodeWord (encode i) = some i := by
  obtain ⟨d, hd, hm, hb⟩ := encodeRow i
  rw [table_eq, List.mem_append] at hd
  rcases hd with hd | hd
  · rw [decodeWord_of_alias hd hm, hb]
  · rw [decodeWord_of_general hd hm, hb]
    intro a ha
    by_contra hwa
    have hwf := not_wf_of_alias ha hd (Bool.not_eq_false _ ▸ hwa) hm
    rw [hb, hi] at hwf
    cases hwf

theorem decodeWord_encode_sll_zero : decodeWord (encode (.sll 0#5 0#5 0#5)) = some .nop := by decide

theorem decodeWord_encode_beq_zero (offset : BitVec 16) :
    decodeWord (encode (.beq 0#5 0#5 offset)) = some (.b offset) :=
  decodeWord_encode (i := .b offset) rfl

theorem decodeWord_encode_bgez_zero (offset : BitVec 16) :
    decodeWord (encode (.bgez 0#5 offset)) = some (.bRegimm offset) :=
  decodeWord_encode (i := .bRegimm offset) rfl

/-- What decodes is well-formed: the word of an ill-formed instruction decodes to another. -/
theorem wf_of_decodeWord {w : Word} {i : Instr} (h : decodeWord w = some i) : i.wf = true := by
  by_contra hwf
  obtain rfl := encode_of_decodeWord h
  rcases (not_wf_iff i).mp (Bool.not_eq_true _ ▸ hwf) with rfl | ⟨offset, rfl⟩ | ⟨offset, rfl⟩
  · cases decodeWord_encode_sll_zero.symm.trans h
  · cases (decodeWord_encode_beq_zero offset).symm.trans h
  · cases (decodeWord_encode_bgez_zero offset).symm.trans h

theorem wordOfBytes_bytesOfWord (w : Word) :
    wordOfBytes (w.extractLsb' 24 8) (w.extractLsb' 16 8) (w.extractLsb' 8 8) (w.extractLsb' 0 8) = w := by
  rw [wordOfBytes, BitVec.extractLsb'_append_extractLsb'_eq_extractLsb' (show 24 = 16 + 8 from rfl),
    BitVec.extractLsb'_append_extractLsb'_eq_extractLsb' (show 16 = 8 + 8 from rfl),
    BitVec.extractLsb'_append_extractLsb'_eq_extractLsb' (show 8 = 0 + 8 from rfl), BitVec.extractLsb'_eq_self]

/-- The bytes of a word that decodes, followed by others (30_encoding.md R110). -/
theorem decodeBytes_bytesOfWord {w : Word} {i : Instr} (h : decodeWord w = some i) (rest : List Byte) :
    decodeBytes (bytesOfWord w ++ rest) = .ok (i, rest) := by
  simp only [bytesOfWord, List.cons_append, List.nil_append, decodeBytes, wordOfBytes_bytesOfWord, h]

/-! ### Words of no row (30_encoding.md R119 to R122, R361) -/

/-- The blank primary opcodes (R119). -/
def blankOpcodes : List Nat := [0x12, 0x13, 0x1C, 0x1D, 0x1E, 0x1F, 0x30, 0x32, 0x33, 0x34, 0x36, 0x38, 0x3A, 0x3B,
  0x3C, 0x3E]
/-- The blank function codes of opcode 0 (R120). -/
def blankFunctions : List Nat := [0x01, 0x05, 0x0A, 0x0B, 0x0E, 0x15, 0x1C, 0x1D, 0x1E, 0x1F, 0x28, 0x29, 0x30, 0x31,
  0x32, 0x33, 0x34, 0x35, 0x36, 0x37, 0x39, 0x3D]
/-- The `rt` of the rows of opcode 1 (R121). -/
def regimmCodes : List Nat := [0x00, 0x01, 0x02, 0x03, 0x10, 0x11, 0x12, 0x13]
/-- The `rs` of the four moves of opcode 0x10 (R122). -/
def moveCodes : List Nat := [0x00, 0x01, 0x04, 0x05]
/-- The five fixed words of opcode 0x10 (R122). -/
def fixedWords : List Word := [0x42000001#32, 0x42000002#32, 0x42000006#32, 0x42000008#32, 0x42000018#32]

theorem table_opcode_mask : ∀ d ∈ table, fieldOpcode d.mask = 63#6 := by decide +kernel

theorem table_opcode : ∀ d ∈ table, (fieldOpcode d.expected).toNat ∉ blankOpcodes := by decide +kernel

theorem table_special : ∀ d ∈ table, (fieldOpcode d.expected).toNat = 0 →
    fieldFunct d.mask = 63#6 ∧ (fieldFunct d.expected).toNat ∉ blankFunctions := by decide +kernel

theorem table_regimm : ∀ d ∈ table, (fieldOpcode d.expected).toNat = 1 →
    fieldRt d.mask = 31#5 ∧ (fieldRt d.expected).toNat ∈ regimmCodes := by decide +kernel

theorem table_cop0 : ∀ d ∈ table, (fieldOpcode d.expected).toNat = 0x10 →
    (fieldRs d.mask = 31#5 ∧ (fieldRs d.expected).toNat ∈ moveCodes ∧
      d.mask.extractLsb' 0 11 = BitVec.allOnes 11 ∧ d.expected.extractLsb' 0 11 = 0#11) ∨
    (d.mask = BitVec.allOnes 32 ∧ d.expected ∈ fixedWords) := by decide +kernel

theorem fieldRs_of_fixedWords : ∀ w ∈ fixedWords, (fieldRs w).toNat ∉ moveCodes := by
  simp [fixedWords, moveCodes, fieldRs]

/-- A word does not decode if no row of its primary opcode matches it. -/
theorem decodeWord_none_of_opcode {w : Word}
    (h : ∀ d ∈ table, fieldOpcode w = fieldOpcode d.expected → d.matches w = true → False) : decodeWord w = none :=
  decodeWord_none fun d hd => by
    by_contra hm
    rw [Bool.not_eq_false] at hm
    exact h d hd (Descriptor.field_of_matches hm 26 6 (table_opcode_mask d hd)) hm

/-- A word that a row of opcode 0x10 matches is a move, its low field zero, or one of the five fixed words. -/
theorem cop0_of_matches {d : Descriptor} (hd : d ∈ table) {w : Word} (hm : d.matches w = true)
    (hop : (fieldOpcode d.expected).toNat = 0x10) :
    ((fieldRs w).toNat ∈ moveCodes ∧ w.toNat % 2 ^ 11 = 0) ∨ w ∈ fixedWords := by
  rcases table_cop0 d hd hop with ⟨hrs, hmove, hlow, hzero⟩ | ⟨hmask, hword⟩
  · left
    have hrsw : fieldRs w = fieldRs d.expected := Descriptor.field_of_matches hm 21 5 hrs
    have hloww : w.extractLsb' 0 11 = 0#11 := (Descriptor.field_of_matches hm 0 11 hlow).trans hzero
    exact ⟨hrsw ▸ hmove, by simpa using congrArg BitVec.toNat hloww⟩
  · right
    have hw := Descriptor.matches_iff.mp hm
    rw [hmask, BitVec.and_allOnes] at hw
    exact hw ▸ hword

end Sys2Proof

namespace Sys2Proof.Machine

/-! ### The ill-formed three have the effect of the row that owns their word (30_encoding.md R131) -/

theorem exec_sll_zero (s : State) : exec (.sll 0#5 0#5 0#5) s = exec .nop s := writeReg_zero s _

theorem exec_beq_zero (offset : BitVec 16) (s : State) : exec (.beq 0#5 0#5 offset) s = exec (.b offset) s := by
  change branchIf s (regsEqual s 0#5 0#5) _ = takeBranch s _
  rw [regsEqual, beq_self_eq_true]
  rfl

theorem exec_bgez_zero (offset : BitVec 16) (s : State) : exec (.bgez 0#5 offset) s = exec (.bRegimm offset) s := by
  have h : regNegative s 0#5 = false := by rw [regNegative, State.reg_zero]; decide
  change branchIf s (!regNegative s 0#5) _ = takeBranch s _
  rw [h]
  rfl

end Sys2Proof.Machine

namespace Sys2Proof.Claims

open Sys2Proof.Machine

/-! ### The statements -/

/-- Settles O4: the row of the encoded word is found, for the three aliases before it match no word of a
well-formed instruction of another row. -/
theorem decodeAfterEncode : Obligations.DecodeAfterEncode :=
  ⟨fun _ => decodeWord_encode, fun _ hi rest => decodeBytes_bytesOfWord (decodeWord_encode hi) rest,
    ⟨decodeWord_encode_sll_zero, exec_sll_zero⟩, fun offset => ⟨decodeWord_encode_beq_zero offset, exec_beq_zero offset⟩,
    fun offset => ⟨decodeWord_encode_bgez_zero offset, exec_bgez_zero offset⟩⟩

/-- Settles O2: the decoder is the search of the table. -/
theorem decodeIsFirstMatchingRow : Obligations.DecodeIsFirstMatchingRow :=
  ⟨table_length, fun w => ⟨decodeWord_eq_some_iff w, decodeWord_eq_none_iff w⟩⟩

/-- Settles O3: two rows share a word where they do not conflict. -/
theorem onlyThreeRowPairsOverlap : Obligations.OnlyThreeRowPairsOverlap := by
  intro j k d e hjk hd he
  refine ⟨sharedWord_iff hjk hd he, fun h => ?_⟩
  obtain ⟨hspec, hne, -⟩ := ((sharedWord_iff hjk hd he).mp h).specialises hd he
  exact ⟨Descriptor.mask_of_specialises hspec, hne⟩

/-- Settles O5: every row builds back the word it matched, and the aliases come first. -/
theorem encodeAfterDecode : Obligations.EncodeAfterDecode := fun _ _ h => ⟨encode_of_decodeWord h, wf_of_decodeWord h⟩

/-- Settles O6: the layouts are concatenations, and a field is a quotient and a remainder of the word. -/
theorem formatsBuildWordsFromFields : Obligations.FormatsBuildWordsFromFields :=
  ⟨encodeR_eq_shifts, encodeI_eq_shifts, encodeJ_eq_shifts,
    fun w => ⟨encodeR_fields w, encodeI_fields w, encodeJ_fields w⟩,
    fun w => ⟨fieldOpcode_toNat w, fieldRs_toNat w, fieldRt_toNat w, fieldRd_toNat w, fieldSa_toNat w, fieldFunct_toNat w,
      fieldImm_toNat w, fieldTarget_toNat w⟩⟩

/-- Settles O7: a row that matched would fix the opcode, and the field of its family, to a value that is not the word's. -/
theorem unassignedWordsDoNotDecode : Obligations.UnassignedWordsDoNotDecode := by
  refine ⟨fun w hblank => ?_, fun w hop hblank => ?_, fun w hop hblank => ?_, fun w hop hrs hfive => ?_,
    fun w hop hrs hlow => ?_⟩ <;> refine decodeWord_none_of_opcode fun d hd hopd hm => ?_
  · exact table_opcode d hd (hopd ▸ hblank)
  · obtain ⟨hmask, hfn⟩ := table_special d hd (hopd ▸ hop)
    have hfnw : fieldFunct w = fieldFunct d.expected := Descriptor.field_of_matches hm 0 6 hmask
    exact hfn (hfnw ▸ hblank)
  · obtain ⟨hmask, hrt⟩ := table_regimm d hd (hopd ▸ hop)
    have hrtw : fieldRt w = fieldRt d.expected := Descriptor.field_of_matches hm 16 5 hmask
    exact hblank (hrtw ▸ hrt)
  · rcases cop0_of_matches hd hm (hopd ▸ hop) with ⟨hmove, -⟩ | hword
    · exact hrs hmove
    · exact hfive hword
  · rcases cop0_of_matches hd hm (hopd ▸ hop) with ⟨-, hzero⟩ | hword
    · exact hlow hzero
    · exact fieldRs_of_fixedWords w hword hrs

/-- Settles O1: the search of the table, evaluated. -/
theorem specWordsDecode : Obligations.SpecWordsDecode := by
  unfold Obligations.SpecWordsDecode
  decide

end Sys2Proof.Claims
end

section
/-! PROOFS. The engine (40_step_engine.md): how each stage of a step ends it, what the step's fetch reads from storage, and
how instructions of each kind end; then the statements of that family. -/

namespace Sys2Proof

theorem wordOfBytes_toNat (b0 b1 b2 b3 : Byte) :
    (wordOfBytes b0 b1 b2 b3).toNat = ((b0.toNat * 256 + b1.toNat) * 256 + b2.toNat) * 256 + b3.toNat := by
  have append (w : Nat) (x : BitVec w) (b : Byte) : (x ++ b).toNat = x.toNat * 256 + b.toNat := by
    rw [BitVec.toNat_append, ← Nat.shiftLeft_add_eq_or_of_lt b.isLt, Nat.shiftLeft_eq]
  simp only [wordOfBytes, append]

/-- Four bytes that decode: their word does (30_encoding.md R110). -/
theorem decodeWord_of_decodeBytes {b0 b1 b2 b3 : Byte} {i : Instr} {rest rest' : List Byte}
    (h : decodeBytes (b0 :: b1 :: b2 :: b3 :: rest) = .ok (i, rest')) :
    decodeWord (wordOfBytes b0 b1 b2 b3) = some i := by
  cases hd : decodeWord (wordOfBytes b0 b1 b2 b3) with
  | none => simp only [decodeBytes, hd] at h; cases h
  | some j => simp only [decodeBytes, hd] at h; cases h; rfl

end Sys2Proof

namespace Sys2Proof.Machine

/-! ### The stages that end a step -/

theorem fetchDecode_of_undecodable {s s' : State} {w : Word} (hf : fetch s = .next (w, s')) (hd : decodeWord w = none)
    (slot : Option Dword) : fetchDecode s slot = .fault ((Fault.decodeFault s'.context).inStep (some w) slot) := by
  simp only [fetchDecode, hf, hd]

theorem step_of_fetchDecode_fault {s : State} {f : Fault} (h0 : configRefusal s = none)
    (h : fetchDecode (beginStep s) s.bd = .fault f) : step s = .fault f := by
  simp only [step, h0, h]

/-- An instruction that completes and is no control transfer advances `pc` and stages nothing (40_step_engine.md R148). -/
theorem Ran.of_not_control {i : Instr} {s t : State} (h : Ran i s t) (hk : i.kind ≠ .control) :
    t.pc = s.pc + 4#64 ∧ t.bd = s.bd := by
  cases hkind : i.kind with
  | normal => exact h.normal hkind
  | control => exact absurd hkind hk
  | unsupported => exact absurd hkind h.supported

/-- A step whose fetched word decodes to an instruction that stage 5 does not reject. -/
theorem step_of_memRead {s s' : State} {v : Dword} {i : Instr} (h0 : configRefusal s = none)
    (hf : memRead (beginStep s) s.pc 4 .fetch = .next (v, s')) (hd : decodeWord (low32 v) = some i)
    (hslot : s.bd = none ∨ i.kind ≠ .control) : step s = match exec i s' with
      | .next t => .next { t with pc := s.bd.getD t.pc, cycles := t.cycles + 1#64 }
      | .fault f => .fault (f.inStep (some (low32 v)) s.bd)
      | .refused r => .refused r := by
  rw [step_of_fetchDecode h0 (fetchDecode_next (fetch_next hf) hd), completeStep_ok hslot]
  cases exec i s' <;> rfl

/-! ### Instructions by kind -/

/-- The handler of every row of kind `unsupported` is the fault (48_cop0_system.md R348). -/
theorem exec_of_unsupported {i : Instr} (hk : i.kind = .unsupported) (s : State) :
    exec i s = .fault (.unsupportedInstruction i.mnemonic s.context) := by
  cases i with
  | syscall | breakI | tlbr | tlbwi | tlbwr | tlbp | eret | cop1 | lwc1 | ldc1 | swc1 | sdc1 => rfl
  | _ => cases hk

end Sys2Proof.Machine

namespace Sys2Proof.Claims

open Sys2Proof.Machine

/-! ### A read of storage gives the bytes the host reads there (20_memory.md R62, R68) -/

/-- Where the host reads a byte, a plain mapping holds it. -/
theorem of_peek {s : State} {pa : Word} {b : Byte} (h : s.peek pa = some b) :
    ∃ m, lookup s.map pa = some m ∧ ReadsPlainly m ∧ plainByte s m pa.toNat = b := by
  cases hl : lookup s.map pa with
  | none => simp only [State.peek, hl] at h; cases h
  | some m =>
    refine ⟨m, rfl, ?_⟩
    cases hk : m.kind with
    | ram =>
      rw [peek_ram hl (.inl hk)] at h; cases h
      exact ⟨.inl (.inl hk), by simp only [plainByte, hk]⟩
    | bootRam =>
      rw [peek_ram hl (.inr hk)] at h; cases h
      exact ⟨.inl (.inr hk), by simp only [plainByte, hk]⟩
    | rom image =>
      rw [peek_rom hl hk] at h; cases h
      exact ⟨.inr (.inr ⟨image, hk⟩), by simp only [plainByte, hk, romByte]⟩
    | openBus | faultTrap | device => simp only [State.peek, hl, hk] at h; cases h

/-- An aligned read of `n` bytes of storage: they lie in one mapping, for its ends are multiples of 8. -/
theorem memRead_of_peek {s : State} {a : Dword} {n : Nat} {pa : Word} {byte : Nat → Byte} (k : AccessKind)
    (hwf : mapWf s.map = true) (hn : n ∈ [1, 2, 4, 8]) (ha : a.toNat % 2 ^ 32 % n = 0)
    (ht : translate s (low32 a) = some pa) (hb : ∀ j < n, s.peek (pa + BitVec.ofNat 32 j) = some (byte j)) :
    ∃ v, memRead s a n k = .next (v, s) ∧ v.toNat = numberOf byte n := by
  obtain ⟨m, hl, hm, -⟩ := of_peek (hb 0 (width_bounds hn).2)
  rw [BitVec.add_zero] at hl
  obtain ⟨v, hread, hv⟩ := memRead_plainNumber (k := k) ⟨ha, ht, hl⟩ hn hm
  refine ⟨v, hread, hv.trans (numberOf_congr fun j hj => ?_)⟩
  have hblock : pa.toNat % 8 + n ≤ 8 := by
    rw [translate_mod8 ht, low32_toNat]
    simp only [List.mem_cons, List.not_mem_nil, or_false] at hn
    rcases hn with rfl | rfl | rfl | rfl <;> omega
  have haddr : (pa + BitVec.ofNat 32 j).toNat = pa.toNat + j := by
    have := pa.isLt
    rw [BitVec.toNat_add, BitVec.toNat_ofNat]; omega
  obtain ⟨m', hl', -, hbyte⟩ := of_peek (hb j hj)
  have hsame : lookup s.map (pa + BitVec.ofNat 32 j) = lookup s.map pa := lookup_block hwf (by omega)
  cases hl'.symm.trans (hsame.trans hl)
  rw [← hbyte, haddr]

/-- A fetch from four bytes of storage reads their word. -/
theorem memRead_word_of_peek {s : State} {a : Dword} {pa : Word} {b0 b1 b2 b3 : Byte} (k : AccessKind)
    (hwf : mapWf s.map = true) (ha : a.toNat % 4 = 0) (ht : translate s (low32 a) = some pa)
    (h0 : s.peek pa = some b0) (h1 : s.peek (pa + 1#32) = some b1) (h2 : s.peek (pa + 2#32) = some b2)
    (h3 : s.peek (pa + 3#32) = some b3) :
    ∃ v, memRead s a 4 k = .next (v, s) ∧ low32 v = wordOfBytes b0 b1 b2 b3 := by
  obtain ⟨v, hread, hv⟩ := memRead_of_peek (n := 4) (byte := fun j => [b0, b1, b2, b3].getD j 0#8) k hwf (by decide)
    (by omega) ht fun j hj => by
      match j with
      | 0 => rw [BitVec.add_zero]; exact h0
      | 1 => exact h1
      | 2 => exact h2
      | 3 => exact h3
  have hlt : v.toNat < 2 ^ 32 := hv ▸ numberOf_lt _ 4
  refine ⟨v, hread, BitVec.eq_of_toNat_eq ?_⟩
  rw [low32_toNat, Nat.mod_eq_of_lt hlt, hv, wordOfBytes_toNat]
  simp [numberOf]

/-! ### The statements -/

/-- Settles O11: only the end of a completed step writes `CYCLES`. -/
theorem cyclesCountCompletedSteps : Obligations.CyclesCountCompletedSteps := by
  refine fun s => ⟨fun t h => ?_, fun f h => ?_⟩
  · obtain ⟨i, s', u, hk, hr, rfl⟩ := ran_of_step h
    rw [State.finishStep_cycles, hr.cycles, hk.cycles, State.beginStep_cycles]
  · obtain ⟨-, -, hk⟩ := faultKept_of_step h
    exact hk.cycles

/-- Settles O12: stage 1 clears the pending target, and what completes in the slot is no control transfer, so nothing
stages one. -/
theorem delaySlotCycleEndsAtTarget : Obligations.DelaySlotCycleEndsAtTarget := by
  refine fun s target hbd => ⟨fun t h => ?_, fun f h => ?_⟩
  · obtain ⟨w, i, s', u, -, hf, hslot, hu, rfl⟩ := of_step_next h
    have hk : i.kind ≠ .control := hslot.resolve_left (by simp [hbd])
    refine ⟨by rw [State.finishStep_pc, hbd, Option.getD_some], ?_⟩
    rw [State.finishStep_bd, ((exec_ran hu).of_not_control hk).2, (kept_of_fetchDecode hf).bd, State.beginStep_bd]
  · obtain ⟨-, hslot, hk⟩ := faultKept_of_step h
    exact ⟨hslot.trans hbd, hk.pc, hk.bd⟩

/-- Settles O13: stage 5 rejects the instruction by its kind, which is its mnemonic's. -/
theorem controlInDelaySlotFaults : Obligations.ControlInDelaySlotFaults := by
  refine ⟨fun s s' target w i h0 hbd hf hk => ?_, fun i => ?_⟩
  · have hpc : s'.pc = s.pc := (kept_of_fetchDecode hf).pc
    rw [step_of_fetchDecode h0 hf, hbd, completeStep_rejected hk, ← hpc]
    rfl
  · cases i with
    | j | jal | jr | jalr | beq | bne | blez | bgtz | bltz | bgez | bltzal | bgezal | beql | bnel | blezl | bgtzl | bltzl
    | bgezl | bltzall | bgezall | b | bRegimm => exact iff_of_true rfl (by simp [Instr.mnemonic])
    | _ => exact iff_of_false nofun (by simp [Instr.mnemonic])

/-- Settles O15: what an instruction that completes can do, by its kind; that control transfers complete, and
unsupported instructions fault. -/
theorem kindDecidesAdvance : Obligations.KindDecidesAdvance := by
  refine fun i s => ⟨fun hk t h => (exec_ran h).normal hk, fun hk => ?_, fun hk => exec_of_unsupported hk s⟩
  obtain ⟨_, _, t, ht, -⟩ := exec_transfers hk s
  exact ⟨t, ht, (exec_ran ht).control hk⟩

/-- Settles O18: the decoder answers none, and the state the fetch left is in the record. -/
theorem undecodableWordFaults : Obligations.UndecodableWordFaults := by
  intro s s' w h0 hf hrows
  have hpc : s'.pc = s.pc := (kept_of_fetch hf).pc
  have hnone : decodeWord w = none := (decodeWord_eq_none_iff w).mpr hrows
  rw [step_of_fetchDecode_fault h0 (fetchDecode_of_undecodable hf hnone s.bd), ← hpc]
  rfl

/-- Settles O8: the stages in order; and a fetch from four bytes of storage reads their word and changes nothing. -/
theorem stepRunsDecodedInstruction : Obligations.StepRunsDecodedInstruction := by
  refine ⟨fun s s' v i h0 hf hd hslot => step_of_memRead h0 hf hd hslot,
    fun s pa b0 b1 b2 b3 i h0 hal ht p0 p1 p2 p3 hd hslot => ?_⟩
  obtain ⟨hwf, -⟩ := config_iff.mp h0
  obtain ⟨v, hread, hv⟩ := memRead_word_of_peek (s := beginStep s) .fetch hwf hal ht p0 p1 p2 p3
  rw [← hv]
  exact step_of_memRead h0 hread (hv ▸ decodeWord_of_decodeBytes hd) hslot

end Sys2Proof.Claims
end

section
/-! PROOFS. Arithmetic and logic with an immediate (41_alu_immediate.md), and the comparisons and bitwise operations between
registers (42_alu_register.md): which words decode to them, the integer or the bits of each result; then the statements of
that family. -/

namespace Sys2Proof

/-- The one row of opcode 0x0F fixes the field `rs` to 0 (41_alu_immediate.md R168). -/
theorem table_lui : ∀ d ∈ table, (fieldOpcode d.expected).toNat = 0x0F →
    fieldRs d.mask = 31#5 ∧ fieldRs d.expected = 0#5 := by decide +kernel

theorem decodeWord_lui_none {w : Word} (hop : (fieldOpcode w).toNat = 0x0F) (hrs : fieldRs w ≠ 0#5) :
    decodeWord w = none :=
  decodeWord_none_of_opcode fun d hd hopd hm => by
    obtain ⟨hmask, hzero⟩ := table_lui d hd (hopd ▸ hop)
    exact hrs ((Descriptor.field_of_matches hm 21 5 hmask).trans hzero)

end Sys2Proof

namespace Sys2Proof.Claims

open Sys2Proof.Machine

/-! ### The words of a row (30_encoding.md R116, R117) -/

/-- The row at position `k` of the table decodes all its words, but for the three rows that an alias specialises. -/
theorem decodesAs_at (k : Nat) {m e : Word} {mk : Word → Instr} (hrow : table[k]? = some ⟨m, e, mk⟩ := by rfl)
    (hk : k ∉ [3, 46, 55] := by decide) : DecodesAs m e mk := by
  intro w hw
  refine (decodeWord_eq_some_iff w _).mpr ⟨k, _, hrow, hw, rfl, fun j hj d hd hwd => ?_⟩
  have hover : Overlap j k := (sharedWord_iff hj hd hrow).mp ⟨w, hwd, hw⟩
  simp only [List.mem_cons, List.not_mem_nil, or_false] at hk
  unfold Overlap at hover
  omega

/-! ### Sums as integers -/

theorem sext64_add (a b : Word) : sext64 (a + b) = sextWrap (a.toInt + b.toInt) := sextWrap_of (BitVec.toInt_add a b)

theorem add_eq_wrap64 (a b : Dword) : a + b = wrap64 (a.toInt + b.toInt) := wrap64_of_toInt (BitVec.toInt_add a b)

/-- A trapping 32-bit sum: the exact one if it fits, else the overflow (60_exceptions.md R379). -/
theorem trapping_add_word (s : State) (rd : Reg) {a b : Word} {x : Int} (hx : a.toInt + b.toInt = x) :
    (Fits32 x → WritesReg s rd (wrap64 x) (writeUnlessOverflow s (addOverflows a b) rd (sext64 (a + b)))) ∧
      (¬ Fits32 x → writeUnlessOverflow s (addOverflows a b) rd (sext64 (a + b)) = .fault (.integerOverflow s.context)) := by
  subst hx
  exact writeUnlessOverflow_cases (addOverflows_word a b) fun hfits => (sext64_add a b).trans (sextWrap_of_fits hfits)

/-- A trapping 64-bit sum: the exact one if it fits, else the overflow (60_exceptions.md R379). -/
theorem trapping_add_dword (s : State) (rd : Reg) {a b : Dword} {x : Int} (hx : a.toInt + b.toInt = x) :
    (Fits64 x → WritesReg s rd (wrap64 x) (writeUnlessOverflow s (addOverflows a b) rd (a + b))) ∧
      (¬ Fits64 x → writeUnlessOverflow s (addOverflows a b) rd (a + b) = .fault (.integerOverflow s.context)) := by
  subst hx
  exact writeUnlessOverflow_cases (addOverflows_dword a b) fun _ => add_eq_wrap64 a b

/-! ### Immediates -/

/-- The upper immediate is `imm * 2^16`, which a signed 32-bit word holds exactly (41_alu_immediate.md R168). -/
theorem upperImm_eq (imm : BitVec 16) : upperImm imm = sextWrap (imm.toInt * 2 ^ 16) := by
  refine sextWrap_of ?_
  rw [mul_comm, ← BitVec.toInt_append_zero (m := 16), BitVec.toInt_bmod_cancel]

/-- A sign-extended immediate as an unsigned number. -/
theorem sextImm_toNat (imm : BitVec 16) : ((sextImm imm).toNat : Int) = imm.toInt % 2 ^ 64 := by
  rw [← sext_imm64, BitVec.toInt_eq_toNat_cond]
  split <;> omega

/-- A zero-extended immediate has no bit above bit 15. -/
theorem getLsbD_zextImm (imm : BitVec 16) {i : Nat} (hi : i < 64) :
    (zextImm imm).getLsbD i = (decide (i < 16) && imm.getLsbD i) := by
  rw [zextImm, BitVec.getLsbD_setWidth, decide_eq_true hi, Bool.true_and]
  by_cases h : i < 16
  · rw [decide_eq_true h, Bool.true_and]
  · rw [BitVec.getLsbD_of_ge imm i (by omega), Bool.and_false]

/-! ### Comparisons as integers -/

theorem boolValue_slt (a b : Dword) : boolValue (a.slt b) = if a.toInt < b.toInt then 1#64 else 0#64 := by
  simp only [boolValue, BitVec.slt_iff_toInt_lt]

theorem boolValue_ult (a b : Dword) : boolValue (a.ult b) = if a.toNat < b.toNat then 1#64 else 0#64 := by
  simp only [boolValue, BitVec.ult_iff_toNat_lt]

/-! ### The statements -/

/-- Settles O37: the exact sum is that of the register and the immediate, sign-extended to the sum's width. -/
theorem trappingImmediateAdds : Obligations.TrappingImmediateAdds := by
  refine ⟨decodesAs_at 59, decodesAs_at 81, fun rt rs imm s => ?_⟩
  obtain ⟨hword, hwordOver⟩ := trapping_add_word s rt (a := s.reg32 rs) (congrArg (s32 s rs + ·) (sext_imm32 imm))
  obtain ⟨hdword, hdwordOver⟩ := trapping_add_dword s rt (a := s.reg rs) (congrArg (s64 s rs + ·) (sext_imm64 imm))
  exact ⟨hword, hwordOver, hdword, hdwordOver⟩

/-- Settles O38: a sum of bit vectors wraps the exact one, and the one row of opcode 0x0F fixes `rs`. -/
theorem wrappingImmediateAdds : Obligations.WrappingImmediateAdds := by
  refine ⟨decodesAs_at 60, decodesAs_at 66, fun w => decodeWord_lui_none, decodesAs_at 82, fun rt rs imm s =>
    ⟨writes_of rfl ?_, writes_of rfl ?_, writes_of rfl (upperImm_eq imm)⟩⟩
  · rw [sext64_add, sext_imm32, s32_eq]
  · rw [add_eq_wrap64, sext_imm64, s64]

/-- Settles O39: the comparison of the bit vectors is that of their signed or unsigned values. -/
theorem comparisonsWriteOneOrZero : Obligations.ComparisonsWriteOneOrZero := by
  refine ⟨decodesAs_at 61, decodesAs_at 62, decodesAs_at 33, decodesAs_at 34, fun rt rs imm s =>
    ⟨writes_of rfl ?_, writes_of rfl ?_⟩, fun rd rs rt s =>
    ⟨writes_of rfl (boolValue_slt _ _), writes_of rfl (boolValue_ult _ _)⟩⟩
  · rw [boolValue_slt, sext_imm64, s64]
  · simp only [boolValue_ult, u64, ← sextImm_toNat, Int.ofNat_lt]

/-- Settles O40: what is written is the bit vector operation itself, read bit by bit. -/
theorem bitwiseOperations : Obligations.BitwiseOperations := by
  refine ⟨decodesAs_at 63, decodesAs_at 64, decodesAs_at 65, decodesAs_at 29, decodesAs_at 30, decodesAs_at 31,
    decodesAs_at 32, fun rt rs imm s => ⟨?_, ?_, ?_⟩, fun rd rs rt s => ⟨?_, ?_, ?_, ?_⟩⟩ <;>
    refine ⟨_, writes_of rfl rfl, fun i hi => ?_⟩
  · rw [BitVec.getLsbD_and, getLsbD_zextImm imm hi]
  · rw [BitVec.getLsbD_or, getLsbD_zextImm imm hi]
  · rw [BitVec.getLsbD_xor, getLsbD_zextImm imm hi]
  · exact BitVec.getLsbD_and
  · exact BitVec.getLsbD_or
  · exact BitVec.getLsbD_xor
  · rw [BitVec.getLsbD_not, BitVec.getLsbD_or, decide_eq_true hi, Bool.true_and]

end Sys2Proof.Claims
end

section
/-! PROOFS. Sums and differences of registers (42_alu_register.md): as signed integers for the trapping forms, as unsigned ones
for the wrapping forms; then the statements of that family. -/

namespace Sys2Proof.Claims

open Sys2Proof.Machine

/-! ### Differences as signed integers -/

theorem sext64_sub (a b : Word) : sext64 (a - b) = sextWrap (a.toInt - b.toInt) := sextWrap_of BitVec.toInt_sub

theorem sub_eq_wrap64 (a b : Dword) : a - b = wrap64 (a.toInt - b.toInt) := wrap64_of_toInt BitVec.toInt_sub

/-! ### Sums and differences as unsigned integers

A result that wraps is the same for signed and unsigned operands, so it is also the bit vector of the exact unsigned result. -/

theorem ofInt_toNat {n : Nat} (a : BitVec n) : BitVec.ofInt n a.toNat = a := by
  rw [BitVec.ofInt_natCast, BitVec.ofNat_toNat, BitVec.setWidth_eq]

theorem add_eq_ofInt {n : Nat} (a b : BitVec n) : a + b = BitVec.ofInt n (a.toNat + b.toNat) := by
  rw [BitVec.ofInt_add, ofInt_toNat, ofInt_toNat]

theorem sub_eq_ofInt {n : Nat} (a b : BitVec n) : a - b = BitVec.ofInt n (a.toNat - b.toNat) := by
  rw [Int.sub_eq_add_neg, BitVec.ofInt_add, BitVec.ofInt_neg, ofInt_toNat, ofInt_toNat, BitVec.sub_eq_add_neg]

theorem sext64_of_ofInt {w : Word} {x : Int} (h : w = BitVec.ofInt 32 x) : sext64 w = sextWrap x :=
  sextWrap_of (h ▸ BitVec.toInt_ofInt x)

/-! ### The statements -/

/-- Settles O41: the overflow condition is that the exact signed result does not fit, and a result that fits does not wrap. -/
theorem trappingRegisterArithmetic : Obligations.TrappingRegisterArithmetic := by
  refine ⟨decodesAs_at 25, decodesAs_at 27, decodesAs_at 35, decodesAs_at 37, fun rd rs rt s => ?_⟩
  obtain ⟨hadd, haddOver⟩ := trapping_add_word s rd (a := s.reg32 rs) (b := s.reg32 rt) rfl
  obtain ⟨hsub, hsubOver⟩ := writeUnlessOverflow_cases (s := s) (rd := rd) (subOverflows_word (s.reg32 rs) (s.reg32 rt))
    fun hfits => (sext64_sub _ _).trans (sextWrap_of_fits hfits)
  obtain ⟨hdadd, hdaddOver⟩ := trapping_add_dword s rd (a := s.reg rs) (b := s.reg rt) rfl
  obtain ⟨hdsub, hdsubOver⟩ := writeUnlessOverflow_cases (s := s) (rd := rd) (subOverflows_dword (s.reg rs) (s.reg rt))
    fun _ => sub_eq_wrap64 _ _
  exact ⟨hadd, haddOver, hsub, hsubOver, hdadd, hdaddOver, hdsub, hdsubOver⟩

/-- Settles O42: a sum or difference of bit vectors is that of their unsigned values, wrapped. -/
theorem wrappingRegisterArithmetic : Obligations.WrappingRegisterArithmetic := by
  refine ⟨decodesAs_at 26, decodesAs_at 28, decodesAs_at 36, decodesAs_at 38, fun rd rs rt s =>
    ⟨writes_of rfl ?_, writes_of rfl ?_, writes_of rfl (add_eq_ofInt _ _), writes_of rfl (sub_eq_ofInt _ _)⟩⟩
  · rw [u32_eq, u32_eq]
    exact sext64_of_ofInt (add_eq_ofInt _ _)
  · rw [u32_eq, u32_eq]
    exact sext64_of_ofInt (sub_eq_ofInt _ _)

end Sys2Proof.Claims
end

section
/-! PROOFS. Shifts (43_shifts.md): which words decode to `SLL`, the amount of a variable form as a number, and a shift as a
product or a quotient by a power of two; then the statements of that family. -/

namespace Sys2Proof.Claims

open Sys2Proof.Machine

/-! ### The words of `SLL` (30_encoding.md R117) -/

/-- Of the three aliases only `NOP` specialises `SLL`, and the zero word is its only word. -/
theorem decodeWord_sll {w : Word} (hw : w &&& 0xFFE0003F = 0x00000000) (hw0 : w ≠ 0) :
    decodeWord w = some (.sll (fieldRd w) (fieldRt w) (fieldSa w)) := by
  have hm : Descriptor.matches ⟨0xFFE0003F, 0x00000000, fun w => .sll (fieldRd w) (fieldRt w) (fieldSa w)⟩ w = true :=
    Descriptor.matches_iff.mpr hw
  refine decodeWord_of_general (List.mem_of_getElem? (i := 0) rfl) hm ?_
  simp only [tableAliases, List.forall_mem_cons]
  refine ⟨?_, Descriptor.not_both (by decide) hm, Descriptor.not_both (by decide) hm, nofun⟩
  rw [← Bool.not_eq_true, Descriptor.matches_iff]
  exact fun hnop => hw0 ((BitVec.and_allOnes).symm.trans hnop)

/-! ### The amount of a variable form (43_shifts.md R210) -/

theorem shiftAmount32_eq (s : State) (rs : Reg) : shiftAmount32 s rs = u64 s rs % 32 := BitVec.extractLsb'_toNat ..

theorem shiftAmount64_eq (s : State) (rs : Reg) : shiftAmount64 s rs = u64 s rs % 64 := BitVec.extractLsb'_toNat ..

/-! ### Shifts as products and quotients, at every width -/

theorem shiftLeft_eq_ofInt {n : Nat} (a : BitVec n) (k : Nat) : a <<< k = BitVec.ofInt n (a.toNat * 2 ^ k : Nat) := by
  rw [BitVec.ofInt_natCast, ← Nat.shiftLeft_eq]
  rfl

theorem ushiftRight_eq_ofInt {n : Nat} (a : BitVec n) (k : Nat) : a >>> k = BitVec.ofInt n (a.toNat / 2 ^ k : Nat) := by
  rw [← Nat.shiftRight_eq_div_pow, ← BitVec.toNat_ushiftRight, ofInt_toNat]

/-- An arithmetic right shift rounds down, also for a negative number. -/
theorem toInt_sshiftRight_fdiv {n : Nat} (a : BitVec n) (k : Nat) : (a.sshiftRight k).toInt = a.toInt.fdiv (2 ^ k) := by
  rw [BitVec.toInt_sshiftRight, Int.shiftRight_eq_div_pow, Int.fdiv_eq_ediv_of_nonneg _ (by positivity), Nat.cast_pow,
    Nat.cast_ofNat]

theorem sshiftRight_eq_wrap64 (a : Dword) (k : Nat) : a.sshiftRight k = wrap64 (a.toInt.fdiv (2 ^ k)) := by
  rw [← toInt_sshiftRight_fdiv, wrap64_toInt]

/-! ### Shifts of the low word of a register, sign-extended -/

section word
variable (s : State) (rt : Reg) (k : Nat)

theorem sext64_shiftLeft : sext64 (s.reg32 rt <<< k) = sextWrap (u32 s rt * 2 ^ k : Nat) := by
  rw [u32_eq]
  exact sext64_of_ofInt (shiftLeft_eq_ofInt _ _)

theorem sext64_ushiftRight : sext64 (s.reg32 rt >>> k) = sextWrap (u32 s rt / 2 ^ k : Nat) := by
  rw [u32_eq]
  exact sext64_of_ofInt (ushiftRight_eq_ofInt _ _)

/-- The sign copied is bit 31 of the source: the quotient is that of the low word (43_shifts.md R213). -/
theorem sext64_sshiftRight : sext64 ((s.reg32 rt).sshiftRight k) = wrap64 ((s32 s rt).fdiv (2 ^ k)) := by
  rw [sext64_eq, toInt_sshiftRight_fdiv, wrap64, s32_eq]

end word

/-! ### The statements -/

/-- Settles O43: a shift of the low word by `k` is its product or quotient by `2^k`, and a variable form takes `k` from `rs`
modulo 32. -/
theorem wordShifts : Obligations.WordShifts := by
  refine ⟨fun w => decodeWord_sll, decodesAs_at 4, decodesAs_at 5, decodesAs_at 6, decodesAs_at 7, decodesAs_at 8,
    fun rd rt sa s => ?_, fun rd rt rs s => ?_⟩
  · exact ⟨writes_of rfl (sext64_shiftLeft s rt _), writes_of rfl (sext64_ushiftRight s rt _),
      writes_of rfl (sext64_sshiftRight s rt _)⟩
  · rw [← shiftAmount32_eq]
    exact ⟨writes_of rfl (sext64_shiftLeft s rt _), writes_of rfl (sext64_ushiftRight s rt _),
      writes_of rfl (sext64_sshiftRight s rt _)⟩

/-- Settles O44: a shift of the register by `k` is its product or quotient by `2^k`; `k` is `sa`, `sa + 32`, or `rs`
modulo 64. -/
theorem doublewordShifts : Obligations.DoublewordShifts := by
  refine ⟨decodesAs_at 39, decodesAs_at 40, decodesAs_at 41, decodesAs_at 42, decodesAs_at 43, decodesAs_at 44,
    decodesAs_at 18, decodesAs_at 19, decodesAs_at 20, fun rd rt sa s => ?_, fun rd rt rs s => ?_⟩
  · exact ⟨writes_of rfl (shiftLeft_eq_ofInt _ _), writes_of rfl (ushiftRight_eq_ofInt _ _),
      writes_of rfl (sshiftRight_eq_wrap64 _ _), writes_of rfl (shiftLeft_eq_ofInt _ _),
      writes_of rfl (ushiftRight_eq_ofInt _ _), writes_of rfl (sshiftRight_eq_wrap64 _ _)⟩
  · rw [← shiftAmount64_eq]
    exact ⟨writes_of rfl (shiftLeft_eq_ofInt _ _), writes_of rfl (ushiftRight_eq_ofInt _ _),
      writes_of rfl (sshiftRight_eq_wrap64 _ _)⟩

end Sys2Proof.Claims
end

section
/-! PROOFS. Multiply, divide, HI and LO (44_muldiv_hilo.md): the accumulator after a write of its whole, products of two words
in a doubleword, what a division leaves for each kind of divisor; then the statements of that family. -/

namespace Sys2Proof.Claims

open Sys2Proof.Machine

/-! ### Writing the accumulator -/

/-- HI and LO hold the upper and the lower half of the value written (10_state.md R28, R29). -/
theorem writesHilo64 (s : State) (v : Dword) :
    ∃ hi lo : Word, WritesHiLo s hi lo (.next (s.setHilo64 v).advance) ∧ hi ++ lo = v :=
  ⟨_, _, writesHiLo s _ _, BitVec.extractLsb'_append_extractLsb'⟩

/-- The low word of a register, from its unsigned value. -/
theorem ofNat_u32 (s : State) (r : Reg) : BitVec.ofNat 32 (u32 s r) = s.reg32 r := by
  rw [u32_eq, BitVec.ofNat_toNat, BitVec.setWidth_eq]

/-! ### The product of two words fits in 64 bits (44_muldiv_hilo.md R230, R231) -/

theorem toInt_mul_sext64 (a b : Word) : (sext64 a * sext64 b).toInt = a.toInt * b.toInt := by
  have hlow : -(2 ^ 62) ≤ a.toInt * b.toInt := BitVec.le_toInt_mul_toInt
  have hhigh : a.toInt * b.toInt ≤ 2 ^ 62 := BitVec.toInt_mul_toInt_le
  rw [BitVec.toInt_mul, sext64, sext64, BitVec.toInt_signExtend_of_le (by omega), BitVec.toInt_signExtend_of_le (by omega)]
  exact Int.bmod_eq_of_le (by omega) (by omega)

theorem toNat_mul_setWidth64 (a b : Word) : (a.setWidth 64 * b.setWidth 64).toNat = a.toNat * b.toNat := by
  have hfits : a.toNat * b.toNat < 2 ^ 32 * 2 ^ 32 := Nat.mul_lt_mul'' a.isLt b.isLt
  rw [BitVec.toNat_mul, BitVec.toNat_setWidth_of_le (by omega), BitVec.toNat_setWidth_of_le (by omega)]
  exact Nat.mod_eq_of_lt hfits

/-! ### Divisions (44_muldiv_hilo.md R232, R233) -/

/-- The zero divisor leaves the draw, any other the quotient in LO and the remainder in HI. -/
theorem writeDivision_cases (s : State) (op : DivOp) (a b quotient remainder : Word) :
    ∃ hi lo : Word, WritesHiLo s hi lo (writeDivision s op a b quotient remainder) ∧
      (b = 0#32 → (hi, lo) = Config.div0 op a 0#32) ∧ (b ≠ 0#32 → hi = remainder ∧ lo = quotient) := by
  refine ⟨_, _, writesHiLo s _ _, fun hb => ?_, fun hb => ⟨if_neg hb, if_neg hb⟩⟩
  subst hb
  rfl

theorem s32_eq_zero_iff (s : State) (r : Reg) : s32 s r = 0 ↔ s.reg32 r = 0#32 := by
  rw [s32_eq, ← BitVec.toInt_inj, BitVec.toInt_zero]

theorem u32_eq_zero_iff (s : State) (r : Reg) : u32 s r = 0 ↔ s.reg32 r = 0#32 := by
  rw [u32_eq, ← BitVec.toNat_inj, BitVec.toNat_zero]

/-- `-2^31 / -1`: the quotient `2^31` wraps, the remainder is 0. -/
theorem sdiv_srem_wraps {a b : Word} (ha : a.toInt = -(2 ^ 31)) (hb : b.toInt = -1) :
    a.sdiv b = 0x80000000#32 ∧ a.srem b = 0#32 := by
  obtain rfl : a = 0x80000000#32 := BitVec.eq_of_toInt_eq ha
  obtain rfl : b = -1#32 := BitVec.eq_of_toInt_eq hb
  decide

theorem toInt_sdiv_of_not_wraps {a b : Word} (h : ¬ (a.toInt = -(2 ^ 31) ∧ b.toInt = -1)) :
    (a.sdiv b).toInt = a.toInt.tdiv b.toInt := by
  refine BitVec.toInt_sdiv_of_ne_or_ne a b (not_and_or.mp fun hab => h ?_)
  obtain ⟨rfl, rfl⟩ := hab
  decide

/-- The remainder is the dividend less the quotient times the divisor. -/
theorem toInt_srem_of_not_wraps {a b : Word} (h : ¬ (a.toInt = -(2 ^ 31) ∧ b.toInt = -1)) :
    (a.srem b).toInt = a.toInt - (a.sdiv b).toInt * b.toInt := by
  rw [BitVec.toInt_srem, toInt_sdiv_of_not_wraps h, Int.tmod_def, mul_comm]

/-! ### The statements -/

/-- Settles O45: the product of the extended words does not wrap, and HI and LO are its halves. -/
theorem multiplyLeavesExactProduct : Obligations.MultiplyLeavesExactProduct := by
  refine ⟨decodesAs_at 21, decodesAs_at 22, fun rs rt s => ⟨?_, ?_⟩⟩
  · obtain ⟨hi, lo, hwrites, hproduct⟩ := writesHilo64 s (sext64 (s.reg32 rs) * sext64 (s.reg32 rt))
    exact ⟨hi, lo, hwrites, hproduct ▸ toInt_mul_sext64 _ _⟩
  · obtain ⟨hi, lo, hwrites, hproduct⟩ := writesHilo64 s ((s.reg32 rs).setWidth 64 * (s.reg32 rt).setWidth 64)
    refine ⟨hi, lo, hwrites, ?_⟩
    rw [hproduct, toNat_mul_setWidth64, u32_eq, u32_eq]

/-- Settles O46: by the divisor, then for `DIV` by whether the quotient wraps. -/
theorem divideLeavesQuotientAndRemainder : Obligations.DivideLeavesQuotientAndRemainder := by
  refine ⟨decodesAs_at 23, decodesAs_at 24, fun rs rt s => ⟨?_, ?_⟩⟩
  · obtain ⟨hi, lo, hwrites, hzero, hnonzero⟩ := writeDivision_cases s .signed (s.reg32 rs) (s.reg32 rt)
      ((s.reg32 rs).sdiv (s.reg32 rt)) ((s.reg32 rs).srem (s.reg32 rt))
    rw [← s32_eq_zero_iff] at hzero
    rw [ne_eq, ← s32_eq_zero_iff] at hnonzero
    refine ⟨hi, lo, hwrites, hzero, fun hb hmin hone => ?_, fun hb hnot => ?_⟩ <;> obtain ⟨rfl, rfl⟩ := hnonzero hb
    · exact sdiv_srem_wraps hmin hone
    · exact ⟨toInt_sdiv_of_not_wraps hnot, toInt_srem_of_not_wraps hnot⟩
  · obtain ⟨hi, lo, hwrites, hzero, hnonzero⟩ := writeDivision_cases s .unsigned (s.reg32 rs) (s.reg32 rt)
      (s.reg32 rs / s.reg32 rt) (s.reg32 rs % s.reg32 rt)
    rw [← u32_eq_zero_iff] at hzero
    rw [ne_eq, ← u32_eq_zero_iff] at hnonzero
    refine ⟨hi, lo, hwrites, hzero, fun hb => ?_⟩
    obtain ⟨rfl, rfl⟩ := hnonzero hb
    rw [u32_eq, u32_eq]
    exact ⟨BitVec.toNat_udiv, BitVec.toNat_umod⟩

/-- Settles O47: a half of the accumulator is read sign-extended, and the low word of a register is written into one half. -/
theorem hiLoMoves : Obligations.HiLoMoves := by
  refine ⟨decodesAs_at 14, decodesAs_at 15, decodesAs_at 16, decodesAs_at 17, fun r s =>
    ⟨writes_of rfl (sext64_eq s.hi), writes_of rfl (sext64_eq s.lo), ?_, ?_⟩⟩ <;> rw [ofNat_u32]
  · exact writesHiLo s (s.reg32 r) s.lo
  · exact writesHiLo s s.hi (s.reg32 r)

end Sys2Proof.Claims
end

section
/-! PROOFS. Branches and jumps (45_branch_jump.md): which words decode to a row that an alias specialises, the targets as
integers, the conditions that are negated; then the statements of that family. -/

namespace Sys2Proof

/-! ### The words that an alias leaves to its general row (30_encoding.md R117) -/

/-- Row `j` is the only earlier row that shares words with row `k`, so row `k` decodes all its others. -/
theorem decodeWord_of_not_alias {j k : Nat} (hjk : Overlap j k) {m e ma ea : Word} {mk mka : Word → Instr}
    (halias : table[j]? = some ⟨ma, ea, mka⟩) (hrow : table[k]? = some ⟨m, e, mk⟩) (w : Word) (hw : w &&& m = e)
    (hwa : w &&& ma ≠ ea) : decodeWord w = some (mk w) := by
  refine (decodeWord_eq_some_iff w _).mpr ⟨k, _, hrow, hw, rfl, fun i hi d hd hwd => ?_⟩
  have hik : Overlap i k := (sharedWord_iff hi hd hrow).mp ⟨w, hwd, hw⟩
  obtain rfl : i = j := by unfold Overlap at hik hjk; omega
  cases halias.symm.trans hd
  exact hwa hwd

end Sys2Proof

namespace Sys2Proof.Machine

/-! ### The region of a jump (45_branch_jump.md R252) -/

/-- Bits 31 to 28 of `pc` are its low 32 bits less its low 28 bits. -/
theorem toNat_region (pc : Dword) : (pc &&& 0xF0000000#64).toNat = pc.toNat / 2 ^ 28 % 16 * 2 ^ 28 := by
  have hmask : (0xF0000000#64 : Dword) = 0xFFFFFFFF#64 &&& ~~~0x0FFFFFFF#64 := by decide
  rw [hmask, ← BitVec.and_assoc, toNat_and_not_lowMask (k := 28) rfl, toNat_and_lowMask (k := 32) rfl]
  omega

theorem jumpTarget_toNat (pc : Dword) (target : BitVec 26) :
    (jumpTarget pc target).toNat = pc.toNat / 2 ^ 28 % 16 * 2 ^ 28 + target.toNat * 4 := by
  have hfield : (target.setWidth 64 <<< 2).toNat = target.toNat * 4 := by
    rw [BitVec.toNat_shiftLeft, BitVec.toNat_setWidth, Nat.shiftLeft_eq]
    omega
  rw [jumpTarget, BitVec.toNat_or, toNat_region, hfield, Nat.mul_comm _ (2 ^ 28), Nat.two_pow_add_eq_or_of_lt (by omega)]

theorem jumpTarget_eq (pc : Dword) (target : BitVec 26) :
    jumpTarget pc target = BitVec.ofNat 64 (pc.toNat / 2 ^ 28 % 16 * 2 ^ 28 + target.toNat * 4) := by
  rw [← jumpTarget_toNat, BitVec.ofNat_toNat, BitVec.setWidth_eq]

end Sys2Proof.Machine

namespace Sys2Proof.Claims

open Sys2Proof.Machine

/-! ### The target of a branch (45_branch_jump.md R252) -/

theorem branchTarget_eq (pc : Dword) (offset : BitVec 16) :
    branchTarget pc offset = wrap64 ((pc.toNat : Int) + 4 + offset.toInt * 4) := by
  rw [wrap64, BitVec.ofInt_add, BitVec.ofInt_add, BitVec.ofInt_mul, ofInt_toNat, branchTarget,
    BitVec.shiftLeft_eq_mul_twoPow]
  rfl

section branch
variable (s : State) {c : Bool} {taken : Prop} (h : c = true ↔ taken) (offset : BitVec 16)
include h

theorem branch_transfers : Transfers s taken (wrap64 ((s.pc.toNat : Int) + 4 + offset.toInt * 4)) none
    (branchIf s c (branchTarget s.pc offset)) := by
  rw [← branchTarget_eq]
  exact transfers s c taken _ h.symm

theorem linkingBranch_transfers (r : Reg) : Transfers s taken (wrap64 ((s.pc.toNat : Int) + 4 + offset.toInt * 4)) (some r)
    (branchIf (s.linkTo r) c (branchTarget s.pc offset)) := by
  rw [← branchTarget_eq]
  exact transfersLink s c taken _ r h.symm

end branch

/-! ### The negated conditions -/

theorem not_regsEqual_iff (s : State) (rs rt : Reg) : (!regsEqual s rs rt) = true ↔ s.reg rs ≠ s.reg rt := by
  rw [Bool.not_eq_true', ← Bool.not_eq_true, regsEqual_iff]

theorem not_regNotPositive_iff (s : State) (r : Reg) : (!regNotPositive s r) = true ↔ 0 < s64 s r := by
  rw [Bool.not_eq_true', ← Bool.not_eq_true, regNotPositive_iff, not_le]

theorem not_regNegative_iff (s : State) (r : Reg) : (!regNegative s r) = true ↔ 0 ≤ s64 s r := by
  rw [Bool.not_eq_true', ← Bool.not_eq_true, regNegative_iff, not_lt]

/-! ### The statements -/

/-- Settles O48: a jump is a branch that is always taken; its target is made from the state before the link is written. -/
theorem jumpsStageTargets : Obligations.JumpsStageTargets := by
  refine ⟨decodesAs_at 53, decodesAs_at 54, decodesAs_at 9, decodesAs_at 10, fun target rd rs s => ?_⟩
  have htaken : True ↔ true = true := iff_of_true trivial rfl
  rw [← jumpTarget_eq]
  exact ⟨transfers s true _ _ htaken, transfersLink s true _ _ _ htaken, transfers s true _ _ htaken,
    transfersLink s true _ _ _ htaken⟩

/-- Settles O49: each branch by its condition; `B` is a branch that is always taken, and its two rows leave the other words
to `BEQ` and `BGEZ`. -/
theorem branchesTakeOrSkip : Obligations.BranchesTakeOrSkip := by
  refine ⟨decodeWord_of_not_alias (j := 1) (k := 55) (.inr (.inl ⟨rfl, rfl⟩)) rfl rfl, decodesAs_at 56, decodesAs_at 57,
    decodesAs_at 58, decodesAs_at 45, decodeWord_of_not_alias (j := 2) (k := 46) (.inr (.inr ⟨rfl, rfl⟩)) rfl rfl,
    decodesAs_at 1, decodesAs_at 2, fun rs rt offset s => ?_⟩
  have always : true = true ↔ True := iff_of_true rfl trivial
  exact ⟨branch_transfers s (regsEqual_iff s rs rt) offset, branch_transfers s (not_regsEqual_iff s rs rt) offset,
    branch_transfers s (regNotPositive_iff s rs) offset, branch_transfers s (not_regNotPositive_iff s rs) offset,
    branch_transfers s (regNegative_iff s rs) offset, branch_transfers s (not_regNegative_iff s rs) offset,
    branch_transfers s always offset, branch_transfers s always offset⟩

/-- Settles O50: the condition is of the state before the link, and the link is written before the branch. -/
theorem linkingBranchesLinkAlways : Obligations.LinkingBranchesLinkAlways := by
  refine ⟨decodesAs_at 49, decodesAs_at 50, decodesAs_at 51, decodesAs_at 52, fun rs offset s => ?_⟩
  have hneg := linkingBranch_transfers s (regNegative_iff s rs) offset Config.link
  have hnonneg := linkingBranch_transfers s (not_regNegative_iff s rs) offset Config.link
  exact ⟨hneg, hnonneg, hneg, hnonneg⟩

/-- Settles O51: a likely form and its plain form are one operation, so O49 says what it does. -/
theorem likelyBranchesTakeOrSkip : Obligations.LikelyBranchesTakeOrSkip := by
  refine ⟨decodesAs_at 77, decodesAs_at 78, decodesAs_at 79, decodesAs_at 80, decodesAs_at 47, decodesAs_at 48,
    fun rs rt offset s => ?_⟩
  obtain ⟨-, -, -, -, -, -, -, -, hplain⟩ := branchesTakeOrSkip
  obtain ⟨hbeq, hbne, hblez, hbgtz, hbltz, hbgez, -, -⟩ := hplain rs rt offset s
  exact ⟨⟨hbeq, rfl⟩, ⟨hbne, rfl⟩, ⟨hblez, rfl⟩, ⟨hbgtz, rfl⟩, ⟨hbltz, rfl⟩, ⟨hbgez, rfl⟩⟩

end Sys2Proof.Claims
end

section
/-! PROOFS. Aligned loads and stores (46_load_store.md): an instruction completes or faults as its one access does, and what
that access is in plain storage; then the statements of that family. -/

namespace Sys2Proof.Machine

/-- A register written back. -/
theorem State.setReg_reg (s : State) (r : Reg) : s.setReg r (s.reg r) = s := by
  by_cases hr : r = 0#5
  · rw [hr, State.setReg_zero]
  · rw [State.reg_of_ne hr, State.setReg, if_neg hr, Vector.set_getElem_self]

end Sys2Proof.Machine

namespace Sys2Proof.Claims

open Sys2Proof.Machine

/-! ### One access, then the end of the instruction (46_load_store.md R302) -/

section access
variable {s : State} {rt : Reg} {ea : Dword} {n : Nat}

theorem kept_of_memRead {s' : State} {v : Dword} {k : AccessKind} (h : memRead s ea n k = .next (v, s')) : Kept s s' := by
  have hkeeps := memRead_keeps s ea n k
  rwa [h] at hkeeps

theorem kept_of_memWrite {s' : State} {v : Dword} (h : memWrite s ea n v = .next s') : Kept s s' := by
  have hkeeps := memWrite_keeps s ea n v
  rwa [h] at hkeeps

theorem load_of_fault {extend : Dword → Dword} {f : Fault} (h : memRead s ea n .read = .fault f) :
    load s rt ea n extend = .fault f := by
  rw [load, h, andThen_fault]

theorem load_completesAfter {extend : Dword → Dword} {s' : State} {v x : Dword} (h : memRead s ea n .read = .next (v, s'))
    (hx : extend v = x) : CompletesAfter s s' rt x (load s rt ea n extend) := by
  rw [load, h, andThen_next, hx]
  exact completesAfter_writeReg (kept_of_memRead h) rt x

theorem store_of_next {t : State} (h : memWrite s ea n (s.reg rt) = .next t) : store s rt ea n = .next t.advance := by
  rw [store, h, andThen_next]

theorem store_of_fault {f : Fault} (h : memWrite s ea n (s.reg rt) = .fault f) : store s rt ea n = .fault f := by
  rw [store, h, andThen_fault]

/-- Writing a register back changes nothing, so a store too ends as a write of its register does. -/
theorem store_completesAfter {t : State} (h : memWrite s ea n (s.reg rt) = .next t) :
    CompletesAfter s t rt (s.reg rt) (store s rt ea n) := by
  have hkept := kept_of_memWrite h
  have hwrite := completesAfter_writeReg hkept rt (t.reg rt)
  rwa [writeReg, State.setReg_reg, ← store_of_next h, hkept.reg] at hwrite

end access

/-! ### The value loaded, from the number its bytes stand for -/

theorem eq_wrap64_of_toNat {v : Dword} {x : Nat} (h : v.toNat = x) : v = wrap64 x := by
  rw [← h, wrap64, ofInt_toNat]

/-- The sign extension of R291, R293 and R295, `w` bits wide. -/
theorem signExtend_setWidth_of_toNat (w : Nat) {v : Dword} {x : Nat} (h : v.toNat = x) :
    (v.setWidth w).signExtend 64 = wrap64 ((x : Int).bmod (2 ^ w)) := by
  rw [BitVec.signExtend, BitVec.toInt_eq_toNat_bmod, BitVec.toNat_setWidth, h, wrap64, Int.natCast_emod,
    Int.emod_bmod]

/-! ### Plain storage -/

section plain
variable {s : State} {ea : Dword} {n : Nat} {pa : Word} {m : Mapping} (h : Lands s ea n pa m) (rt : Reg)
include h

/-- A load from a plain mapping writes what its extension makes of the number the bytes stand for. -/
theorem Lands.load_writesReg (hn : n ∈ [1, 2, 4, 8]) (hm : ReadsPlainly m) {extend : Dword → Dword} {x : Dword}
    (hx : ∀ v : Dword, v.toNat = plainNumber s m pa n → extend v = x) : WritesReg s rt x (load s rt ea n extend) := by
  obtain ⟨v, hread, hv⟩ := memRead_plainNumber (k := .read) h hn hm
  exact load_completesAfter hread (hx v hv)

theorem Lands.store_stores (hm : IsRam m) : Stores s pa n (u64 s rt) (store s rt ea n) := by
  obtain ⟨hin, hout⟩ := read_writeValue s.mem pa.toNat n (s.reg rt)
  have hwrite := memWrite_ram (s.reg rt) ((low32_mod ea n).trans h.aligned) h.mapped h.found hm
  exact ⟨_, store_of_next hwrite, hin, hout, fun _ => rfl, fun _ => rfl, rfl, rfl, rfl, rfl,
    sameSystem_of rfl rfl rfl rfl rfl rfl rfl⟩

theorem Lands.store_onlyAdvances (hk : m.kind = .openBus) : OnlyAdvances s (store s rt ea n) := by
  rw [store_of_next ((h.memWrite_eq _).trans (completeWrite_openBus _ _ _ _ hk))]
  exact onlyAdvances s

end plain

/-! ### The statements -/

/-- Settles O54: each instruction is a `load` or a `store` of its width, which makes the one access. -/
theorem loadsAndStoresMakeOneAccess : Obligations.LoadsAndStoresMakeOneAccess := by
  refine fun rt base offset s => ⟨fun s' v => ⟨fun h => ?_, fun h => ?_, fun h => ?_, fun h => ?_⟩, fun n f h => ?_,
    fun n i hi => ?_⟩
  · rw [exec_lb, exec_lbu]
    exact ⟨load_completesAfter h (signExtend_setWidth_of_toNat 8 rfl), load_completesAfter h rfl⟩
  · rw [exec_lh, exec_lhu]
    exact ⟨load_completesAfter h (signExtend_setWidth_of_toNat 16 rfl), load_completesAfter h rfl⟩
  · rw [exec_lw, exec_lwu]
    exact ⟨load_completesAfter h (signExtend_setWidth_of_toNat 32 rfl), load_completesAfter h rfl⟩
  · rw [exec_ld]
    exact load_completesAfter h rfl
  · rw [exec_lb, exec_lbu, exec_lh, exec_lhu, exec_lw, exec_lwu, exec_ld]
    refine ⟨?_, ?_, ?_, ?_⟩ <;> rintro rfl
    · exact ⟨load_of_fault h, load_of_fault h⟩
    · exact ⟨load_of_fault h, load_of_fault h⟩
    · exact ⟨load_of_fault h, load_of_fault h⟩
    · exact load_of_fault h
  · have hexec : exec i s = store s rt (effAddr s base offset) n := by
      simp only [List.mem_cons, Prod.mk.injEq, List.not_mem_nil, or_false] at hi
      obtain ⟨rfl, rfl⟩ | ⟨rfl, rfl⟩ | ⟨rfl, rfl⟩ | ⟨rfl, rfl⟩ := hi <;> rfl
    rw [hexec]
    exact ⟨fun s' => store_completesAfter, fun f => store_of_fault⟩

/-- Settles O52: the read gives the number the bytes stand for, and each instruction extends it. -/
theorem alignedLoadsExtendBytes : Obligations.AlignedLoadsExtendBytes := by
  refine ⟨decodesAs_at 85, decodesAs_at 89, decodesAs_at 86, decodesAs_at 90, decodesAs_at 88, decodesAs_at 92,
    decodesAs_at 103, fun rt base offset s pa m hm => ⟨fun h => ?_, fun h => ?_, fun h => ?_, fun h => ?_⟩⟩
  · exact ⟨h.load_writesReg rt (by decide) hm fun _ => signExtend_setWidth_of_toNat 8,
      h.load_writesReg rt (by decide) hm fun _ => eq_wrap64_of_toNat⟩
  · exact ⟨h.load_writesReg rt (by decide) hm fun _ => signExtend_setWidth_of_toNat 16,
      h.load_writesReg rt (by decide) hm fun _ => eq_wrap64_of_toNat⟩
  · exact ⟨h.load_writesReg rt (by decide) hm fun _ => signExtend_setWidth_of_toNat 32,
      h.load_writesReg rt (by decide) hm fun _ => eq_wrap64_of_toNat⟩
  · exact h.load_writesReg rt (by decide) hm fun _ => eq_wrap64_of_toNat

/-- Settles O53: each instruction is a `store` of its width, whatever the width. -/
theorem alignedStoresWriteBytes : Obligations.AlignedStoresWriteBytes := by
  refine ⟨decodesAs_at 93, decodesAs_at 94, decodesAs_at 96, decodesAs_at 106,
    fun rt base offset s pa m => ?_⟩
  rw [exec_sb, exec_sh, exec_sw, exec_sd]
  exact ⟨fun h => ⟨h.store_stores rt, h.store_onlyAdvances rt⟩, fun h => ⟨h.store_stores rt, h.store_onlyAdvances rt⟩,
    fun h => ⟨h.store_stores rt, h.store_onlyAdvances rt⟩, fun h => ⟨h.store_stores rt, h.store_onlyAdvances rt⟩⟩

end Sys2Proof.Claims
end

section
/-! PROOFS. Partial-word loads and stores (47_unaligned_load_store.md): the bytes of a register, what remains of them after a
merge, the instructions after their single-byte accesses, and these accesses in plain storage; then the statements of that
family. -/

namespace Sys2Proof.Machine

/-! ### The single-byte accesses of one instruction (20_memory.md R99) -/

theorem readEach_length {s t : State} {as : List Word} {bytes : List Byte} (h : readEach s as = .next (bytes, t)) :
    bytes.length = as.length := by
  induction as generalizing s bytes with
  | nil => cases h; rfl
  | cons a as ih =>
    rw [readEach] at h
    cases hread : memRead s (a.setWidth 64) 1 .read with
    | fault f => rw [hread] at h; cases h
    | refused r => rw [hread] at h; cases h
    | next r =>
      rw [hread, andThen_next] at h
      cases hrest : readEach r.2 as with
      | fault f => rw [hrest] at h; cases h
      | refused q => rw [hrest] at h; cases h
      | next q =>
        rw [hrest] at h
        cases h
        exact congrArg Nat.succ (ih hrest)

theorem kept_of_readEach {s t : State} {as : List Word} {bytes : List Byte} (h : readEach s as = .next (bytes, t)) :
    Kept s t := by
  have hkeeps := readEach_keeps s as
  rwa [h] at hkeeps

theorem kept_of_writeEach {s t : State} {cells : List (Word × Byte)} (h : writeEach s cells = .next t) : Kept s t := by
  have hkeeps := writeEach_keeps s cells
  rwa [h] at hkeeps

end Sys2Proof.Machine

namespace Sys2Proof.Claims

open Sys2Proof.Machine

/-! ### The bytes of a register (20_memory.md R62) -/

theorem beBytes_four_u32 (s : State) (r : Reg) : beBytes 4 (s.reg r) = (List.range 4).map (byteOf 4 (u32 s r)) := by
  rw [beBytes_range]
  exact List.map_congr_left fun k hk => (byteOf_u32 s r (List.mem_range.mp hk)).symm

theorem beBytes_eight_u64 (s : State) (r : Reg) : beBytes 8 (s.reg r) = (List.range 8).map (byteOf 8 (u64 s r)) :=
  beBytes_range 8 (s.reg r)

theorem beValue_range {n : Nat} (hn : n ≤ 8) (f : Nat → Byte) :
    beValue ((List.range n).map f) = BitVec.ofNat 64 (numberOf f n) := by
  rw [numberOf_eq, ← beValue_toNat _ (by simpa using hn), BitVec.ofNat_toNat, BitVec.setWidth_eq]

/-- The most significant bytes of a number are those of its quotient. -/
theorem byteOf_div {n p k : Nat} (hk : k < n - p) (v : Nat) : byteOf (n - p) (v / 256 ^ p) k = byteOf n v k := by
  rw [byteOf, byteOf, Nat.div_div_eq_div_mul, ← Nat.pow_add]
  congr 3
  omega

theorem take_map_range {n m : Nat} (h : m ≤ n) (f : Nat → Byte) :
    ((List.range n).map f).take m = (List.range m).map f := by
  rw [← List.map_take, List.take_range, Nat.min_eq_left h]

theorem drop_map_range (n m : Nat) (f : Nat → Byte) :
    ((List.range n).map f).drop m = (List.range (n - m)).map fun k => f (m + k) :=
  list_eq_range (by simp) fun i hi => by simp [List.getElem?_range (show m + i < n by omega)]

/-! ### Merging bytes into a register (47_unaligned_load_store.md R320) -/

/-- Bytes in the place of the first ones. -/
theorem append_drop_range {n : Nat} {bytes : List Byte} (h : bytes.length ≤ n) (f : Nat → Byte) :
    bytes ++ ((List.range n).map f).drop bytes.length =
      (List.range n).map fun k => if k < bytes.length then bytes.getD k 0#8 else f k := by
  refine list_eq_range (by simp; omega) fun i hi => ?_
  rw [drop_map_range, List.getElem?_append]
  split
  · next hin => simp [hin]
  · next hout =>
    have hsum : bytes.length + (i - bytes.length) = i := by omega
    simp [List.getElem?_range (show i - bytes.length < n - bytes.length by omega), hsum]

/-- Bytes in the place of the last ones. -/
theorem take_append_range {n m : Nat} {bytes : List Byte} (h : m + bytes.length = n) (f : Nat → Byte) :
    ((List.range n).map f).take m ++ bytes =
      (List.range n).map fun k => if m ≤ k then bytes.getD (k - m) 0#8 else f k := by
  refine list_eq_range (by simp; omega) fun i hi => ?_
  rw [take_map_range (by omega), List.getElem?_append, List.length_map, List.length_range]
  split
  · next hin => simp [List.getElem?_range hin, Nat.not_le.mpr hin]
  · next hout => simp [Nat.not_lt.mp hout, List.getElem?_eq_getElem (show i - m < bytes.length by omega)]

/-! ### The end of an instruction -/

/-- What a word form makes of the merged number. -/
theorem sext64_low32_ofNat (x : Nat) : sext64 (low32 (BitVec.ofNat 64 x)) = sextWrap x := by
  rw [low32, BitVec.setWidth_ofNat_of_le (by omega)]
  exact sextWrap_of (BitVec.toInt_ofNat' ..)

theorem ofNat_eq_wrap64 (x : Nat) : BitVec.ofNat 64 x = wrap64 x := wrap64_of_toNat (BitVec.toNat_ofNat x 64)

/-- Going on with memory and latches as an access left them is writing a register back. -/
theorem advance_completesAfter {s t : State} (h : Kept s t) (rt : Reg) :
    CompletesAfter s t rt (s.reg rt) (.next t.advance) := by
  have hwrite := completesAfter_writeReg h rt (t.reg rt)
  rwa [writeReg, State.setReg_reg, h.reg] at hwrite

/-! ### The instructions by their single-byte accesses (47_unaligned_load_store.md R320) -/

section instruction
variable {s s' : State} {rt : Reg} {va : Word} {n : Nat} {extend : Dword → Dword}

theorem loadLeft_of_fault {f : Fault} (h : readEach s (leftOf n va) = .fault f) :
    loadLeft s rt va n extend = .fault f := by
  rw [loadLeft, leftAddrs_eq, h, andThen_fault]

theorem loadRight_of_fault {f : Fault} (h : readEach s (rightOf n va) = .fault f) :
    loadRight s rt va n extend = .fault f := by
  rw [loadRight, rightAddrs_eq, h, andThen_fault]

/-- A store ends as its single-byte writes do. -/
theorem store_after_writeEach {o : Outcome} {cells : List (Word × Byte)}
    (ho : o = andThen (writeEach s cells) fun t => .next t.advance) :
    (∀ t, writeEach s cells = .next t → CompletesAfter s t rt (s.reg rt) o) ∧
      ∀ f, writeEach s cells = .fault f → o = .fault f := by
  refine ⟨fun t h => ?_, fun f h => ?_⟩
  · rw [ho, h, andThen_next]
    exact advance_completesAfter (kept_of_writeEach h) rt
  · rw [ho, h, andThen_fault]

variable {old : Nat} (hn : n = 4 ∨ n = 8) (hold : beBytes n (s.reg rt) = (List.range n).map (byteOf n old))
include hold

theorem storeLeft_eq : storeLeft s rt va n = andThen (writeEach s (leftCells n va old)) fun t => .next t.advance := by
  have hlen : (leftAddrs va n).length = n - va.toNat % n := by simp [leftAddrs, blockPos]
  rw [storeLeft, ← zip_take_length, hlen, hold, take_map_range (Nat.sub_le ..), leftAddrs_eq, leftOf, List.zip_map']
  rfl

include hn

theorem storeRight_eq : storeRight s rt va n = andThen (writeEach s (rightCells n va old)) fun t => .next t.advance := by
  have hpos : va.toNat % n < n := Nat.mod_lt _ (by omega)
  rw [storeRight, hold, blockPos, drop_map_range, show n - (n - 1 - va.toNat % n) = va.toNat % n + 1 by omega,
    rightAddrs_eq, rightOf, List.zip_map']
  rfl

theorem loadLeft_of_next {bytes : List Byte} (h : readEach s (leftOf n va) = .next (bytes, s')) :
    loadLeft s rt va n extend = writeReg s' rt (extend (BitVec.ofNat 64 (mergeLeft n va bytes old))) := by
  have hlen : bytes.length = n - va.toNat % n := by simpa [leftOf] using readEach_length h
  have hle : bytes.length ≤ n := by omega
  rw [loadLeft, leftAddrs_eq, h, andThen_next, hold, blockPos, ← hlen, append_drop_range hle, beValue_range (by omega),
    mergeLeft, hlen]

theorem loadRight_of_next {bytes : List Byte} (h : readEach s (rightOf n va) = .next (bytes, s')) :
    loadRight s rt va n extend = writeReg s' rt (extend (BitVec.ofNat 64 (mergeRight n va bytes old))) := by
  have hlen : bytes.length = va.toNat % n + 1 := by simpa [rightOf] using readEach_length h
  have hpos : va.toNat % n < n := Nat.mod_lt _ (by omega)
  have hsum : n - 1 - va.toNat % n + bytes.length = n := by omega
  rw [loadRight, rightAddrs_eq, h, andThen_next, hold, blockPos, take_append_range hsum, beValue_range (by omega),
    mergeRight]

theorem loadLeft_completesAfter {bytes : List Byte} (h : readEach s (leftOf n va) = .next (bytes, s')) {x : Dword}
    (hx : extend (BitVec.ofNat 64 (mergeLeft n va bytes old)) = x) :
    CompletesAfter s s' rt x (loadLeft s rt va n extend) := by
  rw [loadLeft_of_next hn hold h, hx]
  exact completesAfter_writeReg (kept_of_readEach h) rt x

theorem loadRight_completesAfter {bytes : List Byte} (h : readEach s (rightOf n va) = .next (bytes, s')) {x : Dword}
    (hx : extend (BitVec.ofNat 64 (mergeRight n va bytes old)) = x) :
    CompletesAfter s s' rt x (loadRight s rt va n extend) := by
  rw [loadRight_of_next hn hold h, hx]
  exact completesAfter_writeReg (kept_of_readEach h) rt x

end instruction

/-! ### Plain storage (20_memory.md R84, 47_unaligned_load_store.md R320) -/

theorem storageByte_eq_plainByte (s : State) (m : Mapping) (a : Nat) : storageByte s m a = plainByte s m a := by
  unfold storageByte plainByte
  cases m.kind <;> rfl

theorem readsPlainly_eq_true {m : Mapping} (h : ReadsPlainly m) : readsPlainly m = true := by
  unfold readsPlainly
  rcases h with (hk | hk) | hk | ⟨image, hk⟩ <;> rw [hk]

/-- Byte `k` of what a left load from plain storage leaves in the register. -/
def leftByte (s : State) (m : Mapping) (pa : Word) (n pos old k : Nat) : Byte :=
  if k ≤ n - 1 - pos then plainByte s m (pa.toNat + k) else byteOf n old k

/-- Byte `k` of what a right load from plain storage leaves in the register. -/
def rightByte (s : State) (m : Mapping) (pa : Word) (n pos old k : Nat) : Byte :=
  if n - 1 - pos ≤ k then plainByte s m (pa.toNat + k - (n - 1)) else byteOf n old k

theorem low32_mod_size {n : Nat} (hn : n = 4 ∨ n = 8) (ea : Dword) : (low32 ea).toNat % n = ea.toNat % n := by
  rw [low32_mod]
  rcases hn with rfl | rfl <;> omega

section result
variable {s : State} {rt : Reg} {o : Outcome} {f : Nat → Byte}

/-- The sign-extended word of four bytes has these bytes. -/
theorem WritesReg.word_bytes (h : WritesReg s rt (sext64 (low32 (BitVec.ofNat 64 (numberOf f 4)))) o) :
    ∃ r : Word, WritesReg s rt (wrap64 r.toInt) o ∧ ∀ k < 4, byteOf 4 r.toNat k = f k := by
  refine ⟨low32 (BitVec.ofNat 64 (numberOf f 4)), by rwa [sext64_eq] at h, fun k hk => ?_⟩
  have hlt := numberOf_lt f 4
  rw [low32_toNat, BitVec.toNat_ofNat, Nat.mod_eq_of_lt (by omega), Nat.mod_eq_of_lt (by omega), byteOf_numberOf hk]

theorem WritesReg.dword_bytes (h : WritesReg s rt (BitVec.ofNat 64 (numberOf f 8)) o) :
    ∃ r : Dword, WritesReg s rt r o ∧ ∀ k < 8, byteOf 8 r.toNat k = f k := by
  refine ⟨_, h, fun k hk => ?_⟩
  have hlt := numberOf_lt f 8
  rw [BitVec.toNat_ofNat, Nat.mod_eq_of_lt (by omega), byteOf_numberOf hk]

end result

/-- Bytes written to storage, then the end of the instruction. -/
theorem writeBytes_stores (s : State) {pa : Word} {a n v : Nat} (ha : pa.toNat = a) {bs : List Byte}
    (hbs : bs = (List.range n).map (byteOf n v)) :
    Stores s pa n v (.next (State.advance { s with mem := Memory.writeBytes s.mem a bs })) := by
  subst ha hbs
  refine ⟨_, rfl, fun k hk => ?_, fun x hx => ?_, fun _ => rfl, fun _ => rfl, rfl, rfl, rfl, rfl,
    sameSystem_of rfl rfl rfl rfl rfl rfl rfl⟩
  · simp [Memory.read_writeBytes, hk]
  · exact Memory.read_writeBytes_outside _ _ _ _ (by simpa using hx)

section plain
variable {s : State} {ea : Dword} {pa : Word} {m : Mapping} (h : Lands s ea 1 pa m) {rt : Reg} {n old : Nat}
  (hn : n = 4 ∨ n = 8) (hold : beBytes n (s.reg rt) = (List.range n).map (byteOf n old)) (hwf : mapWf s.map = true)

include h hn in
theorem Lands.pos_le : ea.toNat % n ≤ pa.toNat := by
  have hmod := translate_mod8 h.mapped
  rw [low32_mod_size (.inr rfl)] at hmod
  rcases hn with rfl | rfl <;> omega

include h hn hold hwf

theorem Lands.loadLeft_writesReg (hm : ReadsPlainly m) (extend : Dword → Dword) :
    WritesReg s rt (extend (BitVec.ofNat 64 (numberOf (leftByte s m pa n (ea.toNat % n) old) n)))
      (loadLeft s rt (low32 ea) n extend) := by
  have hread := readEach_left hn hwf h.mapped h.found (readsPlainly_eq_true hm)
  rw [leftAddrs_eq] at hread
  refine loadLeft_completesAfter hn hold hread (congrArg extend (congrArg _ (numberOf_congr fun k hk => ?_)))
  have hlt : ea.toNat % n < n := Nat.mod_lt _ (by omega)
  rw [low32_mod_size hn, leftByte]
  by_cases hin : k < n - ea.toNat % n
  · rw [if_pos hin, if_pos (by omega), ← storageByte_eq_plainByte]
    simp [hin]
  · rw [if_neg hin, if_neg (by omega)]

theorem Lands.loadRight_writesReg (hm : ReadsPlainly m) (extend : Dword → Dword) :
    WritesReg s rt (extend (BitVec.ofNat 64 (numberOf (rightByte s m pa n (ea.toNat % n) old) n)))
      (loadRight s rt (low32 ea) n extend) := by
  have hread := readEach_right hn hwf h.mapped h.found (readsPlainly_eq_true hm)
  rw [rightAddrs_eq] at hread
  refine loadRight_completesAfter hn hold hread (congrArg extend (congrArg _ (numberOf_congr fun k hk => ?_)))
  have hle := h.pos_le hn
  have hlt : ea.toNat % n < n := Nat.mod_lt _ (by omega)
  rw [low32_mod_size hn, rightByte]
  split
  · next hin =>
    have hpos : pa.toNat - ea.toNat % n + (k - (n - 1 - ea.toNat % n)) = pa.toNat + k - (n - 1) := by omega
    rw [← storageByte_eq_plainByte, ← hpos]
    simp [show k - (n - 1 - ea.toNat % n) < ea.toNat % n + 1 by omega]
  · rfl

theorem Lands.storeLeft_stores (hm : IsRam m) :
    Stores s pa (n - ea.toNat % n) (old / 256 ^ (ea.toNat % n)) (storeLeft s rt (low32 ea) n) := by
  rw [storeLeft, writeEach_left hn hwf h.mapped h.found hm, andThen_next, low32_mod_size hn]
  refine writeBytes_stores s rfl ?_
  rw [hold, take_map_range (Nat.sub_le ..)]
  exact List.map_congr_left fun k hk => (byteOf_div (List.mem_range.mp hk) old).symm

theorem Lands.storeRight_stores (hm : IsRam m) :
    Stores s (pa - BitVec.ofNat 32 (ea.toNat % n)) (ea.toNat % n + 1) old (storeRight s rt (low32 ea) n) := by
  have hle := h.pos_le hn
  have hlt : ea.toNat % n < n := Nat.mod_lt _ (by omega)
  rw [storeRight, writeEach_right hn hwf h.mapped h.found hm, andThen_next, low32_mod_size hn]
  refine writeBytes_stores s ?_ ?_
  · have := pa.isLt
    rw [BitVec.toNat_sub, BitVec.toNat_ofNat]
    omega
  · rw [hold, drop_map_range, show n - (n - 1 - ea.toNat % n) = ea.toNat % n + 1 by omega]
    refine List.map_congr_left fun k hk => ?_
    rw [byteOf, byteOf, show n - 1 - (n - 1 - ea.toNat % n + k) = ea.toNat % n + 1 - 1 - k by omega]

end plain

/-! ### The statements -/

/-- Settles O57: each instruction is a merge or an advance after its single-byte accesses, and these keep the rest. -/
theorem partialWordMovesByteByByte : Obligations.PartialWordMovesByteByByte := by
  intro rt base offset s
  have hword := beBytes_four_u32 s rt
  have hdword := beBytes_eight_u64 s rt
  rw [exec_lwl, exec_lwr, exec_ldl, exec_ldr]
  refine ⟨fun bytes s' => ⟨fun h => ?_, fun h => ?_, fun h => ?_, fun h => ?_⟩,
    fun f => ⟨loadLeft_of_fault, loadRight_of_fault, loadLeft_of_fault, loadRight_of_fault⟩, fun cells i hi => ?_⟩
  · exact loadLeft_completesAfter (.inl rfl) hword h (sext64_low32_ofNat _)
  · exact loadRight_completesAfter (.inl rfl) hword h (sext64_low32_ofNat _)
  · exact loadLeft_completesAfter (.inr rfl) hdword h (ofNat_eq_wrap64 _)
  · exact loadRight_completesAfter (.inr rfl) hdword h (ofNat_eq_wrap64 _)
  · simp only [List.mem_cons, Prod.mk.injEq, List.not_mem_nil, or_false] at hi
    obtain ⟨rfl, rfl⟩ | ⟨rfl, rfl⟩ | ⟨rfl, rfl⟩ | ⟨rfl, rfl⟩ := hi
    · exact store_after_writeEach ((exec_swl ..).trans (storeLeft_eq hword))
    · exact store_after_writeEach ((exec_swr ..).trans (storeRight_eq (.inl rfl) hword))
    · exact store_after_writeEach ((exec_sdl ..).trans (storeLeft_eq hdword))
    · exact store_after_writeEach ((exec_sdr ..).trans (storeRight_eq (.inr rfl) hdword))

/-- Settles O55: the bytes read are the mapping's, and the merged number has the bytes it was built from. -/
theorem partialLoadsMergeBytes : Obligations.PartialLoadsMergeBytes := by
  refine ⟨decodesAs_at 87, decodesAs_at 91, decodesAs_at 83, decodesAs_at 84,
    fun rt base offset s pa m hwf hm h => ?_⟩
  have hword := beBytes_four_u32 s rt
  have hdword := beBytes_eight_u64 s rt
  rw [exec_lwl, exec_lwr, exec_ldl, exec_ldr]
  exact ⟨(h.loadLeft_writesReg (.inl rfl) hword hwf hm _).word_bytes,
    (h.loadRight_writesReg (.inl rfl) hword hwf hm _).word_bytes,
    (h.loadLeft_writesReg (.inr rfl) hdword hwf hm _).dword_bytes,
    (h.loadRight_writesReg (.inr rfl) hdword hwf hm _).dword_bytes⟩

/-- Settles O56: the covered bytes are one run of storage, the first or the last bytes of the register. -/
theorem partialStoresWriteCoveredBytes : Obligations.PartialStoresWriteCoveredBytes := by
  refine ⟨decodesAs_at 95, decodesAs_at 99, decodesAs_at 97, decodesAs_at 98,
    fun rt base offset s pa m hwf hm h => ?_⟩
  have hword := beBytes_four_u32 s rt
  have hdword := beBytes_eight_u64 s rt
  rw [exec_swl, exec_swr, exec_sdl, exec_sdr]
  exact ⟨h.storeLeft_stores (.inl rfl) hword hwf hm, h.storeRight_stores (.inl rfl) hword hwf hm,
    h.storeLeft_stores (.inr rfl) hdword hwf hm, h.storeRight_stores (.inr rfl) hdword hwf hm⟩

end Sys2Proof.Claims
end

section
/-! PROOFS. System control (48_cop0_system.md): what a move to a system-control register does, by its number; then the
statements of that family. (The position of a row is proved where it is used: the default proofs of `decodesAs_at` wait for
all earlier proofs of the text, and a text with many such proofs runs out of threads.) -/

namespace Sys2Proof.Machine

/-! ### A move to a system-control register, by its number (48_cop0_system.md R343, R344) -/

theorem moveToCop0_of_writable {number : Reg} (h : number ∈ Config.cop0Writable) (s : State) (v : Dword) :
    moveToCop0 s number v = .next (s.setCop0 number v).advance := if_pos h

theorem moveToCop0_of_not_writable {number : Reg} (h : number ∉ Config.cop0Writable) (s : State) (v : Dword) :
    moveToCop0 s number v = .fault (.unsupportedRegisterWrite number s.context) := if_neg h

end Sys2Proof.Machine

namespace Sys2Proof.Claims

open Sys2Proof.Machine

/-- The low word of a system-control register, sign-extended. -/
theorem sext64_low32 (v : Dword) : sext64 (low32 v) = sextWrap v.toNat := sextWrap_of (BitVec.toInt_setWidth v)

/-- Where the register is writable, the value is in it, `pc` is 4 further, nothing else changed. -/
theorem moveToCop0_writes {number : Reg} (hw : number ∈ Config.cop0Writable) (s : State) (v : Dword) :
    ∃ t, moveToCop0 s number v = .next t ∧ t.cop0 number = v ∧ (∀ j : Reg, j ≠ number → t.cop0 j = s.cop0 j) ∧
      (∀ q : Reg, t.reg q = s.reg q) ∧ t.pc = s.pc + 4#64 ∧ t.hi = s.hi ∧ t.lo = s.lo ∧ t.bd = s.bd ∧
      t.fcr0 = s.fcr0 ∧ t.fcr31 = s.fcr31 ∧ t.cycles = s.cycles ∧ t.tlb = s.tlb ∧ t.map = s.map ∧ t.draws = s.draws ∧
      SameBytes s t := by
  refine ⟨_, moveToCop0_of_writable hw s v, ?_, fun j hj => ?_, fun _ => rfl, rfl, rfl, rfl, rfl, rfl, rfl, rfl, rfl, rfl, rfl,
    fun _ => rfl, fun _ => rfl⟩
  · rw [State.cop0_advance, State.cop0_setCop0, if_pos rfl]
  · rw [State.cop0_advance, State.cop0_setCop0, if_neg hj]

/-! ### The statements -/

/-- Settles O58: a move from is a register write, and both moves to are one operation, decided by the number. -/
theorem cop0MovesAndWhitelist : Obligations.Cop0MovesAndWhitelist := by
  refine ⟨decodesAs_at 67 rfl (by decide), decodesAs_at 68 rfl (by decide), decodesAs_at 69 rfl (by decide),
    decodesAs_at 70 rfl (by decide), fun rt number s => ⟨writes_of rfl (sext64_low32 _), writes s rt _,
      fun hw i v hi => ?_, fun hw => ⟨moveToCop0_of_not_writable hw s _, moveToCop0_of_not_writable hw s _⟩⟩⟩
  simp only [List.mem_cons, Prod.mk.injEq, List.not_mem_nil, or_false] at hi
  rcases hi with ⟨rfl, rfl⟩ | ⟨rfl, rfl⟩
  · rw [← sext64_reg32]
    exact moveToCop0_writes hw s _
  · exact moveToCop0_writes hw s _

/-- Settles O59: all three only go on. -/
theorem noOpsOnlyAdvance : Obligations.NoOpsOnlyAdvance :=
  ⟨decodesAs_at 0 rfl (by decide), decodesAs_at 13 rfl (by decide), decodesAs_at 100 rfl (by decide),
    fun _ _ _ s => ⟨onlyAdvances s, onlyAdvances s, onlyAdvances s⟩⟩

/-- Settles O60: the twelve are the rows of kind `unsupported`, whose handler is the fault with the row's mnemonic. -/
theorem unsupportedInstructionsFault : Obligations.UnsupportedInstructionsFault := by
  refine ⟨decodesAs_at 11 rfl (by decide), decodesAs_at 12 rfl (by decide), decodesAs_at 75 rfl (by decide),
    decodesAs_at 71 rfl (by decide), decodesAs_at 72 rfl (by decide), decodesAs_at 73 rfl (by decide),
    decodesAs_at 74 rfl (by decide), decodesAs_at 101 rfl (by decide), decodesAs_at 102 rfl (by decide),
    decodesAs_at 76 rfl (by decide), decodesAs_at 104 rfl (by decide), decodesAs_at 105 rfl (by decide),
    fun code cofun ft base offset s i name hi => ?_⟩
  obtain ⟨hkind, rfl⟩ : i.kind = .unsupported ∧ i.mnemonic = name := by fin_cases hi <;> exact ⟨rfl, rfl⟩
  exact exec_of_unsupported hkind s

end Sys2Proof.Claims
end

section
/-! PROOFS. Faults (60_exceptions.md): what a faulted step leaves, field by field, and its record; that where MAP has no
device window no instruction changes a byte before it faults; then the statements of that family. -/

namespace Sys2Proof.Machine

/-! ### A fault that leaves the state it was raised in -/

/-- If the outcome is a fault, the state it leaves is `s`. -/
def FaultsIn {α : Type} (s : State) (o : Host.Outcome α Fault Refusal) : Prop :=
  ∀ f, o = .fault f → f.context.after = s

theorem faultsIn_next {α : Type} (s : State) (a : α) : FaultsIn s (.next a) := nofun

theorem faultsIn_raise {α : Type} (s : State) {f : FaultContext → Fault} (hf : ∀ c, (f c).context = c) :
    FaultsIn (α := α) s (raise s f) := by
  rintro _ ⟨⟩
  rw [hf]
  rfl

/-- What goes on to a next state faults in its first part only. -/
theorem FaultsIn.andThen_next {α β : Type} {s : State} {o : Host.Outcome α Fault Refusal} (h : FaultsIn s o) (g : α → β) :
    FaultsIn s (andThen o fun a => .next (g a)) := by
  intro f hf
  cases o with
  | next a => cases hf
  | fault e => cases hf; exact h _ rfl
  | refused r => cases hf

theorem writeUnlessOverflow_faultsIn (s : State) (c : Bool) (r : Reg) (v : Dword) :
    FaultsIn s (writeUnlessOverflow s c r v) := by
  cases c with
  | true => exact faultsIn_raise s fun _ => rfl
  | false => exact faultsIn_next s _

theorem branchIf_faultsIn (s t : State) (c : Bool) (target : Dword) : FaultsIn s (branchIf t c target) := by
  cases c <;> exact faultsIn_next s _

theorem moveToCop0_faultsIn (s : State) (number : Reg) (v : Dword) : FaultsIn s (moveToCop0 s number v) := by
  by_cases h : number ∈ Config.cop0Writable
  · rw [moveToCop0_of_writable h]
    exact faultsIn_next s _
  · rw [moveToCop0_of_not_writable h]
    exact faultsIn_raise s fun _ => rfl

/-! ### The cells of a partial-word store lie in the block of its address (47_unaligned_load_store.md R320) -/

theorem leftAddrs_block {size : Nat} (hs : size = 4 ∨ size = 8) {va a : Word} (ha : a ∈ leftAddrs va size) :
    a.toNat / 8 = va.toNat / 8 := by
  refine addrsFrom_block rfl ?_ a ha
  change va.toNat % 8 + (size - va.toNat % size) ≤ 8
  rcases hs with rfl | rfl <;> omega

theorem rightAddrs_block {size : Nat} (hs : size = 4 ∨ size = 8) {va a : Word} (ha : a ∈ rightAddrs va size) :
    a.toNat / 8 = va.toNat / 8 := by
  have hbase := blockBase_toNat (va := va) hs
  refine addrsFrom_block ?_ ?_ a ha
  · rcases hs with rfl | rfl <;> omega
  · change (blockBase va size).toNat % 8 + (va.toNat % size + 1) ≤ 8
    rcases hs with rfl | rfl <;> omega

/-! ### Where MAP has no device window, a fault changes nothing (60_exceptions.md R384) -/

section plain
variable {s : State} (h : ∀ m ∈ s.map, isPlain m = true)
include h

theorem fetch_faultsIn : FaultsIn s (fetch s) := FaultsIn.andThen_next (memRead_plain h _ 4 .fetch).2 _

/-- A fetch that completes changes nothing. -/
theorem fetch_plain {s' : State} {w : Word} (hf : fetch s = .next (w, s')) : s' = s := by
  rw [fetch_eq] at hf
  cases hr : memRead s s.pc 4 .fetch with
  | next r => rw [hr] at hf; cases hf; exact (memRead_plain h _ 4 .fetch).1 _ _ hr
  | fault e => rw [hr] at hf; cases hf
  | refused r => rw [hr] at hf; cases hf

theorem load_faultsIn (rt : Reg) (ea : Dword) (n : Nat) (extend : Dword → Dword) : FaultsIn s (load s rt ea n extend) :=
  FaultsIn.andThen_next (memRead_plain h ea n .read).2 _

theorem store_faultsIn (rt : Reg) (ea : Dword) (n : Nat) : FaultsIn s (store s rt ea n) :=
  FaultsIn.andThen_next (memWrite_plain h ea n _).2 _

theorem loadLeft_faultsIn (rt : Reg) (va : Word) (size : Nat) (extend : Dword → Dword) :
    FaultsIn s (loadLeft s rt va size extend) := FaultsIn.andThen_next (readEach_plain h _).2 _

theorem loadRight_faultsIn (rt : Reg) (va : Word) (size : Nat) (extend : Dword → Dword) :
    FaultsIn s (loadRight s rt va size extend) := FaultsIn.andThen_next (readEach_plain h _).2 _

variable (hwf : mapWf s.map = true)
include hwf

theorem storeLeft_faultsIn (rt : Reg) (va : Word) {size : Nat} (hs : size = 4 ∨ size = 8) :
    FaultsIn s (storeLeft s rt va size) :=
  FaultsIn.andThen_next (fun _ hf => writeEach_plain_fault h hwf _
    (fun _ hp => leftAddrs_block hs (List.of_mem_zip hp).1) hf) _

theorem storeRight_faultsIn (rt : Reg) (va : Word) {size : Nat} (hs : size = 4 ∨ size = 8) :
    FaultsIn s (storeRight s rt va size) :=
  FaultsIn.andThen_next (fun _ hf => writeEach_plain_fault h hwf _
    (fun _ hp => rightAddrs_block hs (List.of_mem_zip hp).1) hf) _

/-- Whatever the instruction: its fault leaves the state it ran in. -/
theorem exec_faultsIn (i : Instr) : FaultsIn s (exec i s) := by
  cases i with
  | lb | lbu | lh | lhu | lw | lwu | ld =>
    simp only [exec_lb, exec_lbu, exec_lh, exec_lhu, exec_lw, exec_lwu, exec_ld]
    exact load_faultsIn h _ _ _ _
  | sb | sh | sw | sd =>
    simp only [exec_sb, exec_sh, exec_sw, exec_sd]
    exact store_faultsIn h _ _ _
  | lwl | ldl =>
    simp only [exec_lwl, exec_ldl]
    exact loadLeft_faultsIn h _ _ _ _
  | lwr | ldr =>
    simp only [exec_lwr, exec_ldr]
    exact loadRight_faultsIn h _ _ _ _
  | swl => rw [exec_swl]; exact storeLeft_faultsIn h hwf _ _ (.inl rfl)
  | sdl => rw [exec_sdl]; exact storeLeft_faultsIn h hwf _ _ (.inr rfl)
  | swr => rw [exec_swr]; exact storeRight_faultsIn h hwf _ _ (.inl rfl)
  | sdr => rw [exec_sdr]; exact storeRight_faultsIn h hwf _ _ (.inr rfl)
  | add | sub | dadd | dsub | addi | daddi => exact writeUnlessOverflow_faultsIn s _ _ _
  | mtc0 | dmtc0 => exact moveToCop0_faultsIn s _ _
  | beq | bne | blez | bgtz | bltz | bgez | beql | bnel | blezl | bgtzl | bltzl | bgezl | bltzal | bgezal | bltzall
  | bgezall => exact branchIf_faultsIn s _ _ _
  | syscall | breakI | eret | tlbr | tlbwi | tlbwr | tlbp | lwc1 | ldc1 | cop1 | swc1 | sdc1 =>
    exact faultsIn_raise s fun _ => rfl
  | _ => exact faultsIn_next s _

end plain

/-- A faulted step leaves the state stages 1 and 2 made: the fetch changed nothing, nor did the instruction. -/
theorem step_fault_after {s : State} {f : Fault} (h : ∀ m ∈ s.map, isPlain m = true) (hf : step s = .fault f) :
    f.context.after = beginStep s := by
  obtain ⟨h0, ⟨e, he, rfl⟩ | ⟨w, s', hnext, hrest⟩⟩ := of_step_fault hf
  · rw [Fault.inStep_context]
    exact fetch_faultsIn (s := beginStep s) h e he
  · obtain ⟨hwf, -⟩ := Claims.config_iff.mp h0
    obtain rfl : s' = beginStep s := fetch_plain (s := beginStep s) h hnext
    obtain ⟨-, rfl⟩ | ⟨i, -, ⟨-, -, rfl⟩ | ⟨e, he, rfl⟩⟩ := hrest <;> rw [Fault.inStep_context]
    · rfl
    · rfl
    · exact exec_faultsIn (s := beginStep s) h hwf i e he

/-- The word in the record: none where the fetch faulted, else the word fetched. -/
theorem step_fault_word {s : State} {f : Fault} (hf : step s = .fault f) :
    (∃ e, fetch (beginStep s) = .fault e ∧ f.context.word = none) ∨
      ∃ w s', fetch (beginStep s) = .next (w, s') ∧ f.context.word = some w := by
  obtain ⟨-, ⟨e, he, rfl⟩ | ⟨w, s', hnext, hrest⟩⟩ := of_step_fault hf
  · exact .inl ⟨e, he, by rw [Fault.inStep_context]⟩
  · refine .inr ⟨w, s', hnext, ?_⟩
    obtain ⟨-, rfl⟩ | ⟨i, -, ⟨-, -, rfl⟩ | ⟨e, -, rfl⟩⟩ := hrest <;> rw [Fault.inStep_context]

end Sys2Proof.Machine

namespace Sys2Proof.Claims

open Sys2Proof.Machine

theorem NoDevices.isPlain {map : List Mapping} (h : NoDevices map) : ∀ m ∈ map, isPlain m = true := by
  rintro ⟨kind, tag, lo, hi⟩ hm
  cases kind with
  | device id regs => exact absurd rfl (h _ hm id regs)
  | ram | bootRam | rom | openBus | faultTrap => rfl

/-! ### The statements -/

/-- Settles O16: the state a fault leaves is the one stages 1 and 2 made but for bytes, and without windows wholly so. -/
theorem faultLeavesState : Obligations.FaultLeavesState := by
  intro s f hf
  obtain ⟨-, -, hk⟩ := faultKept_of_step hf
  refine ⟨hk.bd, ?_, ?_, hk.pc, hk.reg, hk.hi, hk.lo, fun i hrandom hcount => ?_, hk.fcr0, hk.fcr31, hk.cycles, hk.tlb,
    hk.map, fun hplain => ?_⟩
  · rw [hk.cop0, begin_cop0, if_neg (by decide), if_pos rfl]
  · rw [hk.cop0, count_beginStep]
  · rw [hk.cop0, begin_cop0, if_neg hcount, if_neg hrandom]
  · rw [step_fault_after hplain.isPlain hf]
    exact ⟨fun _ => rfl, fun _ => rfl⟩

/-- Settles O17: the step adds the word and the target to the record; a fetch has one outcome, so the word is as it says. -/
theorem faultRecordNamesInstruction : Obligations.FaultRecordNamesInstruction := by
  intro s f hf
  obtain ⟨hpc, hslot, -⟩ := faultKept_of_step hf
  refine ⟨hpc, hslot, fun w s' hnext => ?_, fun e hfault => ?_⟩ <;>
    obtain ⟨e', he', hword⟩ | ⟨w', t, hnext', hword⟩ := step_fault_word hf
  · cases hnext.symm.trans he'
  · cases hnext.symm.trans hnext'; exact hword
  · exact hword
  · cases hfault.symm.trans hnext'

end Sys2Proof.Claims
end
